-- ==== Sys2Proof/Word.lean ====
section
/-! DEFINITION. The word type and the two bus widths of the block at the spec's fixed parameters (00_scope R6, 20_memory R201). -/

namespace Sys2Proof

/-- A W-bit word: the unit of every register, of every Nat and of the host port (00_scope R6, R13). -/
abbrev Word := BitVec 64

/-- A byte address on the host port: ABITS = 16 bits when W = 64 (20_memory R201). -/
abbrev Addr := BitVec 16

/-- `ONES = 2^W - 1` (00_scope R13). -/
def ones : Word := BitVec.allOnes 64

end Sys2Proof
end

