-- ==== Sys2Proof/Config.lean ====
section
/-! DEFINITION. What is fixed for the block (the parameters of 00_scope R6 to R11) and the free values (the draws of R19). -/

namespace Sys2Proof.Config

/-- `W`, the word width in bits. "This spec fixes `W = 64`" (00_scope R6; log 4). -/
abbrev W : Nat := 64

/-- `WB = W/8`, the word width in bytes (00_scope R6). -/
abbrev WB : Nat := 8

/-- `NMAX`, the words of a Nat register. "This spec fixes `NMAX = 64`" (00_scope R7; log 4). -/
abbrev NMAX : Nat := 64

/-- `NREG`, the Nat registers n0 to n15 (00_scope R8). -/
abbrev NREG : Nat := 16

/-- `NMOD`, the modulus slots m0 and m1 (00_scope R9). -/
abbrev NMOD : Nat := 2

/-- `NCH`, the choice registers c0 to c3 (00_scope R10). -/
abbrev NCH : Nat := 4

/-- `EMAXB = NMAX * WB`, the largest ELEN (00_scope R11). -/
abbrev EMAXB : Nat := 512

/-- The draws of 00_scope R19: `freeBits width k` is the value of the `k`-th draw when it is `width` bits wide.
It has no body, so nothing can be proved of it but its range: `any_nat(n)` is `freeBits (W*n) k`, `any_word` is
`freeBits W k`, `any_bit` is `freeBits 1 k`. DESIGN CHOICE of form, safe (log 3). -/
opaque freeBits (width k : Nat) : BitVec width

end Sys2Proof.Config
end

