-- ==== Sys2Proof/Syntax.lean ====
section
/-! DEFINITION. The commands of the block, one constructor per row of spec/opcode_table.json, and the raw fields of a command word (30_encoding R302). -/

namespace Sys2Proof

/-- A Nat register index, 0..15 (30_encoding R304). -/
abbrev NatIx := Fin 16

/-- A modulus slot index, 0..1 (30_encoding R304). -/
abbrev SlotIx := Fin 2

/-- A choice register index, 0..3 (30_encoding R304). -/
abbrev ChoiceIx := Fin 4

/-- The 23 commands (30_encoding R306). The arguments stand in the order of the assembler syntax (R309): the
destination first. `s` is a slot, `d`, `a`, `b` are Nat registers, `k`, `ka`, `kb` are choice registers. -/
inductive Instr where
  | modload (s : SlotIx) (a : NatIx)
  | expand (d : NatIx) (s : SlotIx)
  | mov (d a : NatIx)
  | addc (d a b : NatIx)
  | subb (d a b : NatIx)
  | modadd (d a b : NatIx) (s : SlotIx)
  | modsub (d a b : NatIx) (s : SlotIx)
  | montmul (d a b : NatIx) (s : SlotIx)
  | tomont (d a : NatIx) (s : SlotIx)
  | frommont (d a : NatIx) (s : SlotIx)
  | modmul (d a b : NatIx) (s : SlotIx)
  | modexp (d a b : NatIx) (s : SlotIx)
  | modexps (d a : NatIx) (s : SlotIx)
  | select (d : NatIx) (k : ChoiceIx) (a b : NatIx)
  | equal (k : ChoiceIx) (a b : NatIx)
  | iszero (k : ChoiceIx) (a : NatIx)
  | isone (k : ChoiceIx) (a : NatIx)
  | isminusone (k : ChoiceIx) (a : NatIx) (s : SlotIx)
  | isodd (k : ChoiceIx) (a : NatIx)
  | cand (k ka kb : ChoiceIx)
  | cor (k ka kb : ChoiceIx)
  | modinv (d a : NatIx) (s : SlotIx)
  | gcd (d a b : NatIx)
  deriving DecidableEq, Repr

/-- The seven fields of a 32-bit command word, each as wide as 30_encoding R302 makes it. -/
structure Fields where
  opc : BitVec 8
  rd  : BitVec 4
  ra  : BitVec 4
  rb  : BitVec 4
  cs  : BitVec 2
  ms  : BitVec 1
  rsv : BitVec 9
  deriving DecidableEq, Repr

/-- Why a word is no command (30_encoding R307): the decoder rejects it by one of these names. -/
inductive Illegal where
  /-- bits W-1:32 of the bus word are non-zero -/
  | highBits
  /-- RSV is non-zero -/
  | reservedField
  /-- OPC is not in the map of R306 -/
  | unlistedOpcode
  /-- a field the opcode does not use is non-zero -/
  | unusedField
  deriving DecidableEq, Repr

end Sys2Proof
end

