-- ==== Sys2Proof/WellFormed.lean ====
section
/-! DEFINITION. When the fields of a command word are legal (30_encoding R303, R307), check by check, apart from the decoder. -/

namespace Sys2Proof

/-- Which fields an opcode uses: one row of the table of 30_encoding R303. `choiceSources` marks CAND and COR,
whose RA and RB use only their bits 1:0. -/
structure FieldUse where
  rd : Bool
  ra : Bool
  rb : Bool
  cs : Bool
  ms : Bool
  choiceSources : Bool := false
  deriving DecidableEq, Repr

/-- The table of 30_encoding R303: each listed opcode with the fields it uses. -/
def fieldUses : List (BitVec 8 × FieldUse) :=
  [ (0x01, ⟨false, true,  false, false, true,  false⟩),
    (0x02, ⟨true,  false, false, false, true,  false⟩),
    (0x03, ⟨true,  true,  false, false, false, false⟩),
    (0x10, ⟨true,  true,  true,  false, false, false⟩),
    (0x11, ⟨true,  true,  true,  false, false, false⟩),
    (0x12, ⟨true,  true,  true,  false, true,  false⟩),
    (0x13, ⟨true,  true,  true,  false, true,  false⟩),
    (0x20, ⟨true,  true,  true,  false, true,  false⟩),
    (0x21, ⟨true,  true,  false, false, true,  false⟩),
    (0x22, ⟨true,  true,  false, false, true,  false⟩),
    (0x23, ⟨true,  true,  true,  false, true,  false⟩),
    (0x30, ⟨true,  true,  true,  false, true,  false⟩) ] ++
  [ (0x31, ⟨true,  true,  false, false, true,  false⟩),
    (0x40, ⟨true,  true,  true,  true,  false, false⟩),
    (0x41, ⟨false, true,  true,  true,  false, false⟩),
    (0x42, ⟨false, true,  false, true,  false, false⟩),
    (0x43, ⟨false, true,  false, true,  false, false⟩),
    (0x44, ⟨false, true,  false, true,  true,  false⟩),
    (0x45, ⟨false, true,  false, true,  false, false⟩),
    (0x46, ⟨false, true,  true,  true,  false, true⟩),
    (0x47, ⟨false, true,  true,  true,  false, true⟩),
    (0x50, ⟨true,  true,  false, false, true,  false⟩),
    (0x51, ⟨true,  true,  true,  false, false, false⟩) ]

/-- R307: RSV must be 0. -/
def Fields.reservedClear (f : Fields) : Bool := f.rsv == 0

/-- R307: OPC must be in the map. -/
def Fields.opcodeListed (f : Fields) : Bool := (fieldUses.lookup f.opc).isSome

/-- R303, R307: every field the opcode does not use must be 0; for CAND and COR also RA[3:2] and RB[3:2]. -/
def Fields.unusedClear (f : Fields) : Bool :=
  match fieldUses.lookup f.opc with
  | none => true
  | some u =>
    (u.rd || f.rd == 0) && (u.ra || f.ra == 0) && (u.rb || f.rb == 0) && (u.cs || f.cs == 0) && (u.ms || f.ms == 0) &&
      (!u.choiceSources || (f.ra.toNat < 4 && f.rb.toNat < 4))

/-- The fields of a legal command word (30_encoding R307, apart from the bus word's bits above 31). -/
def Fields.wellFormed (f : Fields) : Bool := f.reservedClear && f.opcodeListed && f.unusedClear

end Sys2Proof
end

