-- ==== Sys2Proof/Decode.lean ====
section
/-! DEFINITION. The decoder (total, rejecting by name) and the encoder of command words (30_encoding R301 to R307). -/

namespace Sys2Proof

/-- The fields of a command word, at the bits of 30_encoding R302. -/
def Fields.unpack (w : BitVec 32) : Fields where
  opc := w.extractLsb' 0 8
  rd  := w.extractLsb' 8 4
  ra  := w.extractLsb' 12 4
  rb  := w.extractLsb' 16 4
  cs  := w.extractLsb' 20 2
  ms  := w.extractLsb' 22 1
  rsv := w.extractLsb' 23 9

/-- The command word with these fields: the layout line of 30_encoding R302, most significant field first. -/
def Fields.pack (f : Fields) : BitVec 32 := f.rsv ++ f.ms ++ f.cs ++ f.rb ++ f.ra ++ f.rd ++ f.opc

/-- The command `i` if the opcode's unused fields are all 0, else the rejection (30_encoding R307). -/
def acceptWhen (unusedAreZero : Bool) (i : Instr) : Except Illegal Instr :=
  if unusedAreZero then .ok i else .error .unusedField

/-- The choice index in the low two bits of RA or RB: CAND and COR only (30_encoding R304). -/
def choiceSource (field : BitVec 4) : ChoiceIx := (field.extractLsb' 0 2).toFin

/-- Bits 3:2 of RA or RB, which CAND and COR do not use, are 0 (30_encoding R303). -/
def choiceSourceOk (field : BitVec 4) : Bool := field.extractLsb' 2 2 == 0

/-- The command these fields spell (30_encoding R303, R304, R307). -/
def decodeFields (f : Fields) : Except Illegal Instr :=
  let d : NatIx := f.rd.toFin
  let a : NatIx := f.ra.toFin
  let b : NatIx := f.rb.toFin
  let k : ChoiceIx := f.cs.toFin
  let s : SlotIx := f.ms.toFin
  if f.rsv ≠ 0 then .error .reservedField
  else match f.opc.toNat with
    | 0x01 => acceptWhen (f.rd == 0 && f.rb == 0 && f.cs == 0) (.modload s a)
    | 0x02 => acceptWhen (f.ra == 0 && f.rb == 0 && f.cs == 0) (.expand d s)
    | 0x03 => acceptWhen (f.rb == 0 && f.cs == 0 && f.ms == 0) (.mov d a)
    | 0x10 => acceptWhen (f.cs == 0 && f.ms == 0) (.addc d a b)
    | 0x11 => acceptWhen (f.cs == 0 && f.ms == 0) (.subb d a b)
    | 0x12 => acceptWhen (f.cs == 0) (.modadd d a b s)
    | 0x13 => acceptWhen (f.cs == 0) (.modsub d a b s)
    | 0x20 => acceptWhen (f.cs == 0) (.montmul d a b s)
    | 0x21 => acceptWhen (f.rb == 0 && f.cs == 0) (.tomont d a s)
    | 0x22 => acceptWhen (f.rb == 0 && f.cs == 0) (.frommont d a s)
    | 0x23 => acceptWhen (f.cs == 0) (.modmul d a b s)
    | 0x30 => acceptWhen (f.cs == 0) (.modexp d a b s)
    | 0x31 => acceptWhen (f.rb == 0 && f.cs == 0) (.modexps d a s)
    | 0x40 => acceptWhen (f.ms == 0) (.select d k a b)
    | 0x41 => acceptWhen (f.rd == 0 && f.ms == 0) (.equal k a b)
    | 0x42 => acceptWhen (f.rd == 0 && f.rb == 0 && f.ms == 0) (.iszero k a)
    | 0x43 => acceptWhen (f.rd == 0 && f.rb == 0 && f.ms == 0) (.isone k a)
    | 0x44 => acceptWhen (f.rd == 0 && f.rb == 0) (.isminusone k a s)
    | 0x45 => acceptWhen (f.rd == 0 && f.rb == 0 && f.ms == 0) (.isodd k a)
    | 0x46 => acceptWhen (f.rd == 0 && f.ms == 0 && choiceSourceOk f.ra && choiceSourceOk f.rb)
                (.cand k (choiceSource f.ra) (choiceSource f.rb))
    | 0x47 => acceptWhen (f.rd == 0 && f.ms == 0 && choiceSourceOk f.ra && choiceSourceOk f.rb)
                (.cor k (choiceSource f.ra) (choiceSource f.rb))
    | 0x50 => acceptWhen (f.rb == 0 && f.cs == 0) (.modinv d a s)
    | 0x51 => acceptWhen (f.cs == 0 && f.ms == 0) (.gcd d a b)
    | _ => .error .unlistedOpcode

/-- The command a 32-bit command word spells: what PEND holds (10_state R137). -/
def decodeCommand (w : BitVec 32) : Except Illegal Instr := decodeFields (Fields.unpack w)

/-- The command a bus word written to CMD spells: its bits 63:32 must be 0 (30_encoding R301, R307). -/
def decode (v : Word) : Except Illegal Instr :=
  if v.extractLsb' 32 32 ≠ 0 then .error .highBits else decodeCommand (v.extractLsb' 0 32)

/-- The command word's fields for a command: every unused field 0 (30_encoding R303). -/
def Instr.fields : Instr → Fields
  | .modload s a        => ⟨0x01, 0, .ofFin a, 0, 0, .ofFin s, 0⟩
  | .expand d s         => ⟨0x02, .ofFin d, 0, 0, 0, .ofFin s, 0⟩
  | .mov d a            => ⟨0x03, .ofFin d, .ofFin a, 0, 0, 0, 0⟩
  | .addc d a b         => ⟨0x10, .ofFin d, .ofFin a, .ofFin b, 0, 0, 0⟩
  | .subb d a b         => ⟨0x11, .ofFin d, .ofFin a, .ofFin b, 0, 0, 0⟩
  | .modadd d a b s     => ⟨0x12, .ofFin d, .ofFin a, .ofFin b, 0, .ofFin s, 0⟩
  | .modsub d a b s     => ⟨0x13, .ofFin d, .ofFin a, .ofFin b, 0, .ofFin s, 0⟩
  | .montmul d a b s    => ⟨0x20, .ofFin d, .ofFin a, .ofFin b, 0, .ofFin s, 0⟩
  | .tomont d a s       => ⟨0x21, .ofFin d, .ofFin a, 0, 0, .ofFin s, 0⟩
  | .frommont d a s     => ⟨0x22, .ofFin d, .ofFin a, 0, 0, .ofFin s, 0⟩
  | .modmul d a b s     => ⟨0x23, .ofFin d, .ofFin a, .ofFin b, 0, .ofFin s, 0⟩
  | .modexp d a b s     => ⟨0x30, .ofFin d, .ofFin a, .ofFin b, 0, .ofFin s, 0⟩
  | .modexps d a s      => ⟨0x31, .ofFin d, .ofFin a, 0, 0, .ofFin s, 0⟩
  | .select d k a b     => ⟨0x40, .ofFin d, .ofFin a, .ofFin b, .ofFin k, 0, 0⟩
  | .equal k a b        => ⟨0x41, 0, .ofFin a, .ofFin b, .ofFin k, 0, 0⟩
  | .iszero k a         => ⟨0x42, 0, .ofFin a, 0, .ofFin k, 0, 0⟩
  | .isone k a          => ⟨0x43, 0, .ofFin a, 0, .ofFin k, 0, 0⟩
  | .isminusone k a s   => ⟨0x44, 0, .ofFin a, 0, .ofFin k, .ofFin s, 0⟩
  | .isodd k a          => ⟨0x45, 0, .ofFin a, 0, .ofFin k, 0, 0⟩
  | .cand k ka kb       => ⟨0x46, 0, .ofNat 4 ka, .ofNat 4 kb, .ofFin k, 0, 0⟩
  | .cor k ka kb        => ⟨0x47, 0, .ofNat 4 ka, .ofNat 4 kb, .ofFin k, 0, 0⟩
  | .modinv d a s       => ⟨0x50, .ofFin d, .ofFin a, 0, 0, .ofFin s, 0⟩
  | .gcd d a b          => ⟨0x51, .ofFin d, .ofFin a, .ofFin b, 0, 0, 0⟩

/-- The 32-bit command word of a command (30_encoding R302, R303). -/
def encodeCommand (i : Instr) : BitVec 32 := i.fields.pack

/-- The bus word the host writes to CMD to issue a command: bits 63:32 are 0 (30_encoding R301). -/
def encode (i : Instr) : Word := (encodeCommand i).setWidth 64

/-- A command is well-formed when the fields it is encoded with are (30_encoding R303, R307). -/
def Instr.wellFormed (i : Instr) : Bool := i.fields.wellFormed

/-- One row of spec/opcode_table.json: a word `w` spells the row's command when `w &&& mask = pattern`. -/
structure OpcodeRow where
  mnemonic : String
  pattern : BitVec 32
  mask : BitVec 32
  deriving DecidableEq, Repr

/-- The rows of spec/opcode_table.json, match and mask as each command's rule gives them (30_encoding R306). -/
def opcodeTable : List OpcodeRow :=
  [ ⟨"MODLOAD", 0x00000001, 0xFFBF0FFF⟩,
    ⟨"EXPAND", 0x00000002, 0xFFBFF0FF⟩,
    ⟨"MOV", 0x00000003, 0xFFFF00FF⟩,
    ⟨"ADDC", 0x00000010, 0xFFF000FF⟩,
    ⟨"SUBB", 0x00000011, 0xFFF000FF⟩,
    ⟨"MODADD", 0x00000012, 0xFFB000FF⟩,
    ⟨"MODSUB", 0x00000013, 0xFFB000FF⟩,
    ⟨"MONTMUL", 0x00000020, 0xFFB000FF⟩,
    ⟨"TOMONT", 0x00000021, 0xFFBF00FF⟩,
    ⟨"FROMMONT", 0x00000022, 0xFFBF00FF⟩,
    ⟨"MODMUL", 0x00000023, 0xFFB000FF⟩,
    ⟨"MODEXP", 0x00000030, 0xFFB000FF⟩ ] ++
  [ ⟨"MODEXPS", 0x00000031, 0xFFBF00FF⟩,
    ⟨"SELECT", 0x00000040, 0xFFC000FF⟩,
    ⟨"EQUAL", 0x00000041, 0xFFC00FFF⟩,
    ⟨"ISZERO", 0x00000042, 0xFFCF0FFF⟩,
    ⟨"ISONE", 0x00000043, 0xFFCF0FFF⟩,
    ⟨"ISMINUSONE", 0x00000044, 0xFF8F0FFF⟩,
    ⟨"ISODD", 0x00000045, 0xFFCF0FFF⟩,
    ⟨"CAND", 0x00000046, 0xFFCCCFFF⟩,
    ⟨"COR", 0x00000047, 0xFFCCCFFF⟩,
    ⟨"MODINV", 0x00000050, 0xFFBF00FF⟩,
    ⟨"GCD", 0x00000051, 0xFFF000FF⟩ ]

/-- The mnemonic of a command (30_encoding R303). -/
def Instr.mnemonic : Instr → String
  | .modload _ _ => "MODLOAD"
  | .expand _ _ => "EXPAND"
  | .mov _ _ => "MOV"
  | .addc _ _ _ => "ADDC"
  | .subb _ _ _ => "SUBB"
  | .modadd _ _ _ _ => "MODADD"
  | .modsub _ _ _ _ => "MODSUB"
  | .montmul _ _ _ _ => "MONTMUL"
  | .tomont _ _ _ => "TOMONT"
  | .frommont _ _ _ => "FROMMONT"
  | .modmul _ _ _ _ => "MODMUL"
  | .modexp _ _ _ _ => "MODEXP"
  | .modexps _ _ _ => "MODEXPS"
  | .select _ _ _ _ => "SELECT"
  | .equal _ _ _ => "EQUAL"
  | .iszero _ _ => "ISZERO"
  | .isone _ _ => "ISONE"
  | .isminusone _ _ _ => "ISMINUSONE"
  | .isodd _ _ => "ISODD"
  | .cand _ _ _ => "CAND"
  | .cor _ _ _ => "COR"
  | .modinv _ _ _ => "MODINV"
  | .gcd _ _ _ => "GCD"

/-- What the decoder reads from a table word of `nbits` bits: a command is one word, so the word is the bus word
itself, with every bit above `nbits` 0 (30_encoding R301). -/
def decodeTableWord (nbits w : Nat) : Option Instr :=
  match decode (BitVec.ofNat 64 (w % 2 ^ nbits)) with
  | .ok i => some i
  | .error _ => none

end Sys2Proof
end

