-- ==== Sys2Proof/Machine/State.lean ====
section
/-! DEFINITION. The state of the block as plain data (10_state R101), its reset (70_reset_and_hazards R701), and the reasons a step stops. -/

namespace Sys2Proof.Machine

/-- An announced length in words: `0 ≤ len ≤ NMAX` (10_state R103, R114). -/
abbrev Len := Fin (Config.NMAX + 1)

/-- The words `w[0..NMAX-1]` of a Nat register or of a slot, word 0 least significant (10_state R103; 20_memory R204). -/
abbrev Words := Vector Word Config.NMAX

/-- A Nat register (10_state R103). -/
structure NatReg where
  len : Len
  w   : Words
  deriving DecidableEq, Repr

/-- A modulus slot: the modulus and its Montgomery constants (10_state R111 to R117). `bits` is a bit count, 0..W*NMAX. -/
structure Slot where
  valid : Bool
  odd   : Bool
  len   : Len
  bits  : Nat
  w     : Words
  m0inv : Word
  rr    : Words
  deriving DecidableEq, Repr

/-- The values of STATUS.FAULTCODE (60_exceptions R606). "Every other code value is reserved and is never produced." -/
inductive FaultCode where
  /-- 0x00 NONE -/
  | noFault
  /-- 0x01 ILLEGAL: an illegal command word -/
  | illegal
  /-- 0x02 NOMOD: the named slot is not valid -/
  | nomod
  /-- 0x03 EVEN: an odd modulus is required -/
  | even
  /-- 0x04 SIZE: announced lengths do not match -/
  | size
  /-- 0x05 EXPLEN: ELEN bytes do not fit in the exponent register -/
  | explen
  /-- 0x10 BUSY: a host write to state the engine owns while BUSY = 1 -/
  | busy
  /-- 0x11 BADLEN: a LEN or ELEN write out of range -/
  | badlen
  /-- 0x12 ALIGN: a misaligned host access -/
  | align
  deriving DecidableEq, Repr

/-- A move of the block's environment: the host's two bus operations (00_scope R20), the moment the engine takes its
step (60_exceptions R611), and the reset input (70_reset_and_hazards R701). -/
inductive Event where
  /-- `MemRead(addr, WB)` -/
  | read (addr : Addr)
  /-- `MemWrite(addr, WB, v)` -/
  | write (addr : Addr) (v : Word)
  /-- the engine takes its step now, if BUSY = 1 -/
  | engine
  /-- the level driven on the input `rst` -/
  | rst (level : Bool)
  deriving DecidableEq, Repr

/-- The state. The fields down to `pend` are the block's (10_state R101); `rstIn`, `events`, `rdata` and `draws` are
the model's own and stand for the block's environment (log 1, 3, 5, 6). -/
structure State where
  /-- N[0..15] (R103) -/
  nats : Vector NatReg Config.NREG
  /-- M[0..1] (R111) -/
  slots : Vector Slot Config.NMOD
  /-- C[0..3] (R121) -/
  choices : Vector Word Config.NCH
  /-- CARRY (R122), STATUS bit 4 -/
  carry : Bool
  /-- OKF (R123), STATUS bit 3 -/
  okf : Bool
  /-- CTRL.DONEIE (R126) -/
  doneie : Bool
  /-- CTRL.FAULTIE (R126) -/
  faultie : Bool
  /-- STATUS.BUSY (R129) -/
  busy : Bool
  /-- STATUS.DONE (R129) -/
  done : Bool
  /-- STATUS.FAULT (R129) -/
  fault : Bool
  /-- STATUS.FAULTCODE (R129) -/
  faultCode : FaultCode
  /-- LASTCMD (R130) -/
  lastCmd : Word
  /-- FAULTDATA (R132) -/
  faultData : Word
  /-- FAULTADDR (R133) -/
  faultAddr : Word
  /-- ELEN (R127) -/
  elen : Word
  /-- ESHORT (R128) -/
  eshort : Word
  /-- PEND (R137) -/
  pend : BitVec 32
  /-- the level of the input `rst` (70_reset_and_hazards R701; log 5) -/
  rstIn : Bool
  /-- the environment's coming moves, soonest first (20_memory R223; log 1) -/
  events : List Event
  /-- the word the port returned to the last `MemRead` (00_scope R20; log 6) -/
  rdata : Word
  /-- how many draws have been made (00_scope R19; log 3) -/
  draws : Nat
  deriving DecidableEq, Repr

/-- A Nat register after reset: the zero value, length 0 (10_state R107). -/
def NatReg.zero : NatReg := { len := 0, w := Vector.replicate _ 0 }

/-- An empty slot: what reset and a failed MODLOAD leave (10_state R112 to R117; 41_nat_and_modulus R403). -/
def Slot.empty : Slot :=
  { valid := false, odd := false, len := 0, bits := 0, w := Vector.replicate _ 0, m0inv := 0, rr := Vector.replicate _ 0 }

/-- The block right after reset: every piece of its state at the value of 70_reset_and_hazards R701, all of them 0.
The four environment fields stand empty: no event queued, `rst` low, nothing read, nothing drawn (log 1, 3, 5, 6). -/
def State.reset : State :=
  { nats := Vector.replicate _ NatReg.zero
    slots := Vector.replicate _ Slot.empty
    choices := Vector.replicate _ 0
    carry := false
    okf := false
    doneie := false
    faultie := false
    busy := false
    done := false
    fault := false
    faultCode := .noFault
    lastCmd := 0
    faultData := 0
    faultAddr := 0
    elen := 0
    eshort := 0
    pend := 0
    rstIn := false
    events := []
    rdata := 0
    draws := 0 }

/-- The reasons the model stops with a fault. The block's own faults (60_exceptions R606) are not among them: they are
recorded in the state, which goes on. -/
inductive Fault where
  /-- Raised by the engine step (`engineStep`) when PEND decodes to no command. Safe: the issue latches only words that
  decode (60_exceptions R601), so no run from reset gets here, and the spec gives such a state no meaning (log 8). -/
  | illegalPend
  deriving DecidableEq, Repr

/-- The reasons the model refuses. -/
inductive Refusal where
  /-- Raised by an arm of `exec` that has no meaning yet, with its mnemonic. Safe. No arm of this model uses it. -/
  | notModelled (mnemonic : String)
  deriving DecidableEq, Repr

end Sys2Proof.Machine
end

