-- ==== Sys2Proof/Machine/Arith.lean ====
section
/-! DEFINITION. The arithmetic of the commands on words and naturals, as the spec's pseudocode writes it (00_scope R13, R22; 42 R421, R422; 43 R442; 44 R462, R464). -/

namespace Sys2Proof.Machine

open Sys2Proof.Config

/-- `bitlen(v)`, with `bitlen(0) = 0` (00_scope R22). -/
def bitlen (v : Nat) : Nat := if v = 0 then 0 else v.log2 + 1

/-- Word `i` of the value `v`: `(v >> (W*i)) mod 2^W` (00_scope R18). -/
def wordAt (v i : Nat) : Word := BitVec.ofNat 64 (v >>> (W * i))

/-- The value of a word sequence, word 0 least significant: `sum of w[i] * 2^(W*i)` (00_scope R15). -/
def wordsVal : List Word → Nat
  | [] => 0
  | w :: ws => w.toNat + 2 ^ W * wordsVal ws

/-- The `NMAX` words that hold `v` in the words below `n`, and 0 in the words from `n` on (00_scope R18). -/
def wordsOf (v n : Nat) : Words := Vector.ofFn fun i => if i.val < n then wordAt v i.val else 0

/-- The loop of ADDC: ripple over the words with carry in `c`, no early exit; the result words and the carry out
(42_word_adder R421). -/
def addWords : List Word → List Word → Bool → List Word × Bool
  | a :: as, b :: bs, c =>
    let t := a.toNat + b.toNat + c.toNat
    let rest := addWords as bs (decide (2 ^ W ≤ t))
    (BitVec.ofNat 64 t :: rest.1, rest.2)
  | _, _, c => ([], c)

/-- The loop of SUBB: the result words and the borrow out (42_word_adder R422). -/
def subWords : List Word → List Word → Bool → List Word × Bool
  | a :: as, b :: bs, bo =>
    let t : Int := (a.toNat : Int) - b.toNat - bo.toNat
    let rest := subWords as bs (decide (t < 0))
    (BitVec.ofInt 64 t :: rest.1, rest.2)
  | _, _, bo => ([], bo)

/-- The bitmask blend `(a & mask) | (b & ~mask)` of each pair of words (45_select_compare R483). -/
def blendWords (mask : Word) (as bs : List Word) : List Word :=
  List.zipWith (fun a b => (a &&& mask) ||| (b &&& ~~~mask)) as bs

/-- The or of the words' differences, every word read (45_select_compare R484). -/
def diffWords (as bs : List Word) : Word := (List.zipWith (fun a b => a ^^^ b) as bs).foldl (· ||| ·) 0

/-- The extended Euclid loop on remainders `r0, r1` and coefficients `t0, t1`, with a bound on its rounds. -/
def euclid : Nat → Nat → Nat → Int → Int → Int
  | 0, _, _, t0, _ => t0
  | fuel + 1, r0, r1, t0, t1 => if r1 = 0 then t0 else euclid fuel r1 (r0 % r1) t1 (t0 - (r0 / r1 : Nat) * t1)

/-- `inv(a, m)`: the `x` in `[0, m)` with `a*x mod m = 1`, when `gcd(a, m) = 1` (00_scope R22). Only the value is
architectural (46_vartime R512). -/
def inv (a m : Nat) : Nat := (euclid (m + 1) m (a % m) 0 1 % (m : Int)).toNat

/-- `m0inv` of an odd modulus: `(2^W - inv(w0, 2^W)) mod 2^W` with `w0 = v mod 2^W` (10_state R116; 41 R403). -/
def negInvWord (v : Nat) : Word := BitVec.ofNat 64 ((2 ^ W - inv (v % 2 ^ W) (2 ^ W)) % 2 ^ W)

/-- One iteration of the Montgomery product for the word `ai` of A: `T` becomes `(T + ai*B + u*m) >> w` (43_montgomery R442). -/
def montStep (w m mi B ai T : Nat) : Nat :=
  let t := T + ai * B
  let u := (t % 2 ^ w) * mi % 2 ^ w
  (t + u * m) >>> w

/-- `T` after the first `n` iterations, words 0 to n-1 of A, from `T = 0` (43_montgomery R442). -/
def montLoop (w m mi A B : Nat) : Nat → Nat
  | 0 => 0
  | i + 1 => montStep w m mi B ((A >>> (w * i)) % 2 ^ w) (montLoop w m mi A B i)

/-- The Montgomery product of the n-word values A and B with words of `w` bits: the loop and the final conditional
subtraction (43_montgomery R442). -/
def montProduct (w n m mi A B : Nat) : Nat :=
  let T := montLoop w m mi A B n
  if m ≤ T then T - m else T

/-- The exponent bits `j-1` down to 0 of MODEXP: always square, always multiply, select by the bit (44_exponentiation R462). -/
def expBits (mm : Nat → Nat → Nat) (e xR : Nat) : Nat → Nat → Nat
  | 0, acc => acc
  | j + 1, acc =>
    let sq := mm acc acc
    let t := mm sq xR
    expBits mm e xR j (if e.testBit j then t else sq)

/-- The exponent bits `j-1` down to 0 of MODEXPS: the multiply is skipped on 0 bits (44_exponentiation R464). -/
def expBitsShort (mm : Nat → Nat → Nat) (e xR : Nat) : Nat → Nat → Nat
  | 0, acc => acc
  | j + 1, acc =>
    let sq := mm acc acc
    expBitsShort mm e xR j (if e.testBit j then mm sq xR else sq)

end Sys2Proof.Machine
end

