-- ==== Sys2Proof/Machine/Operands.lean ====
section
/-! DEFINITION. The operands of the commands: registers by index, their words and values, the reduced-operand condition, the exponent (00_scope R15, R16; 41 R402; 43 R442; 44 R461). -/

namespace Sys2Proof.Machine

open Sys2Proof.Config

/-- `N[r]` (00_scope R15). No Nat register is hardwired (10_state R104). -/
def State.N (s : State) (r : NatIx) : NatReg := s.nats[r]

/-- `M[k]` (00_scope R16). -/
def State.M (s : State) (k : SlotIx) : Slot := s.slots[k]

/-- `C[k]` (00_scope R17). -/
def State.C (s : State) (k : ChoiceIx) : Word := s.choices[k]

/-- The words of a register that count: those below its length (00_scope R15). -/
def NatReg.words (r : NatReg) : List Word := r.w.toList.take r.len

/-- `val(N[r])` (00_scope R15). -/
def NatReg.val (r : NatReg) : Nat := wordsVal r.words

/-- The modulus words `w[0..len-1]` (10_state R115). -/
def Slot.words (m : Slot) : List Word := m.w.toList.take m.len

/-- `mval(s)`, the modulus value (00_scope R16). -/
def Slot.mval (m : Slot) : Nat := wordsVal m.words

/-- `rrval(s)`: the value of `rr` over `len` words (00_scope R16). -/
def Slot.rrval (m : Slot) : Nat := wordsVal (m.rr.toList.take m.len)

/-- `R(s) = 2^(W * M[s].len)`, the Montgomery radix (00_scope R16). -/
def Slot.radix (m : Slot) : Nat := 2 ^ (W * m.len)

/-- The Montgomery product `MM_s(A, B)` of a slot (43_montgomery R442). -/
def Slot.mm (m : Slot) (A B : Nat) : Nat := montProduct W m.len m.mval m.m0inv.toNat A B

/-- A register is reduced for a slot: `val < mval` (00_scope R24; 41_nat_and_modulus R402). -/
def State.reduced (s : State) (r : NatIx) (k : SlotIx) : Bool := decide ((s.N r).val < (s.M k).mval)

/-- The MODEXP exponent `e = val(N[b]) mod 2^(8*ELEN)` (44_exponentiation R461). -/
def State.exponent (s : State) (b : NatIx) : Nat := (s.N b).val % 2 ^ (8 * s.elen.toNat)

/-- The result of MODEXP's algorithm on a base `x`, an exponent `e` and `nbits` exponent bits (44_exponentiation R462). -/
def Slot.expResult (m : Slot) (x e nbits : Nat) : Nat :=
  let xR := m.mm x m.rrval
  let acc := m.mm 1 m.rrval
  m.mm (expBits m.mm e xR nbits acc) 1

/-- The result of MODEXPS's algorithm on a base `x` and an exponent `e` (44_exponentiation R464). -/
def Slot.expShortResult (m : Slot) (x e : Nat) : Nat :=
  if e = 0 then 1
  else
    let xR := m.mm x m.rrval
    m.mm (expBitsShort m.mm e xR (bitlen e - 1) xR) 1

end Sys2Proof.Machine
end

