-- ==== Sys2Proof/Machine/Flags.lean ====
section
/-! DEFINITION. Every flag and status view: choices, fault codes, the STATUS, CTRL, ID and MINFO words, and the interrupt line (10_state R121 to R139; 60 R606, R613). -/

namespace Sys2Proof.Machine

open Sys2Proof.Config

/-- `choice(p)`: ONES when `p` holds, else 0 (00_scope R22). -/
def choiceOf (p : Bool) : Word := if p then ones else 0

/-- The FAULTCODE value of a fault (60_exceptions R606). -/
def FaultCode.code : FaultCode → BitVec 8
  | .noFault => 0x00
  | .illegal => 0x01
  | .nomod => 0x02
  | .even => 0x03
  | .size => 0x04
  | .explen => 0x05
  | .busy => 0x10
  | .badlen => 0x11
  | .align => 0x12

/-- STATUS.CH: bit k is bit 0 of C[k] (10_state R129). -/
def State.choiceBits (s : State) : BitVec 4 :=
  (s.C 3).extractLsb' 0 1 ++ (s.C 2).extractLsb' 0 1 ++ (s.C 1).extractLsb' 0 1 ++ (s.C 0).extractLsb' 0 1

/-- The STATUS word laid out from its fields (10_state R129); OKF, CARRY and CH are arguments because a read while
BUSY = 1 returns draws for them (20_memory R221). -/
def State.statusLayout (s : State) (okf carry : BitVec 1) (ch : BitVec 4) : Word :=
  (0 : BitVec 40) ++ s.faultCode.code ++ (0 : BitVec 4) ++ ch ++ (0 : BitVec 3) ++ carry ++ okf ++
    BitVec.ofBool s.fault ++ BitVec.ofBool s.done ++ BitVec.ofBool s.busy

/-- The exact STATUS word (10_state R129). -/
def State.statusWord (s : State) : Word :=
  s.statusLayout (BitVec.ofBool s.okf) (BitVec.ofBool s.carry) s.choiceBits

/-- The CTRL word: SRST and the reserved bits read 0 (10_state R126). -/
def State.ctrlWord (s : State) : Word :=
  (0 : BitVec 61) ++ BitVec.ofBool s.faultie ++ BitVec.ofBool s.doneie ++ (0 : BitVec 1)

/-- The ID constant from its fields: NCHM1, NMODM1, NREGM1, NMAX, WIDTH, VER (10_state R131). -/
def idWord : Word :=
  (0 : BitVec 33) ++ BitVec.ofNat 2 (NCH - 1) ++ BitVec.ofNat 1 (NMOD - 1) ++ BitVec.ofNat 4 (NREG - 1) ++
    BitVec.ofNat 8 NMAX ++ BitVec.ofNat 8 W ++ (1 : BitVec 8)

/-- The MINFO word of a slot (10_state R134). -/
def Slot.info (m : Slot) : Word :=
  (0 : BitVec 32) ++ BitVec.ofNat 16 m.bits ++ BitVec.ofNat 8 m.len ++ (0 : BitVec 6) ++
    BitVec.ofBool m.odd ++ BitVec.ofBool m.valid

/-- The output `irq`: `(DONE & DONEIE) | (FAULT & FAULTIE)`, a level and no state (10_state R139; 60_exceptions R613). -/
def State.irq (s : State) : Bool := (s.done && s.doneie) || (s.fault && s.faultie)

end Sys2Proof.Machine
end

