-- ==== Sys2Proof/Machine/Ops.lean ====
section
/-! DEFINITION. The named operations on the state: `write_nat`, the draws, the choice and slot writes, raising a fault, the resets, the checks of a command at issue, and the completion of a command (00_scope R18, R19; 60 R601 to R603, R611; 70 R701, R702). -/

namespace Sys2Proof.Machine

open Sys2Proof.Config

/-- Store a Nat register whole. -/
def State.setNat (s : State) (r : NatIx) (x : NatReg) : State := { s with nats := s.nats.set r x }

/-- Store a slot whole: MODLOAD only (10_state R118). -/
def State.setSlot (s : State) (k : SlotIx) (m : Slot) : State := { s with slots := s.slots.set k m }

/-- Store a choice register. -/
def State.setChoice (s : State) (k : ChoiceIx) (v : Word) : State := { s with choices := s.choices.set k v }

/-- `write_nat(d, v, n)`, the one way a command writes a Nat register (00_scope R18; 10_state R106). -/
def State.writeNat (s : State) (d : NatIx) (v : Nat) (n : Len) : State := s.setNat d { len := n, w := wordsOf v n }

/-- The next draw of `width` bits (00_scope R19; log 3). -/
def State.nextDraw (s : State) (width : Nat) : BitVec width := freeBits width s.draws

/-- The draw counter moves on by `n` draws. -/
def State.drawn (s : State) (n : Nat) : State := { s with draws := s.draws + n }

/-- `write_nat(d, any_nat(n), n)`: the destination of a command with an unreduced operand (41_nat_and_modulus R402). -/
def State.drawNat (s : State) (d : NatIx) (n : Len) : State := (s.writeNat d (s.nextDraw (W * n)).toNat n).drawn 1

/-- The result of a "modulo m" command: the value `v` at the modulus length when its operands are reduced, a draw of
that length when one is not (41_nat_and_modulus R402). -/
def State.writeResidue (s : State) (operandsReduced : Bool) (d : NatIx) (k : SlotIx) (v : Nat) : State :=
  if operandsReduced then s.writeNat d v (s.M k).len else s.drawNat d (s.M k).len

/-- The length in words of a value of at most `NMAX` words: `ceil(bitlen(v) / W)` (41_nat_and_modulus R403). A larger
value does not occur, the bound only makes the result a length. -/
def minimalLen (v : Nat) : Len := ⟨min ((bitlen v + (W - 1)) / W) NMAX, by simp only [NMAX]; omega⟩

/-- The slot that MODLOAD makes of an accepted value `v ≥ 2` (41_nat_and_modulus R403; 10_state R112 to R117). -/
def Slot.load (v : Nat) : Slot :=
  let n := minimalLen v
  let isOdd := decide (v % 2 = 1)
  { valid := true
    odd := isOdd
    len := n
    bits := bitlen v
    w := wordsOf v n
    m0inv := if isOdd then negInvWord v else 0
    rr := if isOdd then wordsOf ((2 ^ (W * n.val)) ^ 2 % v) n else wordsOf 0 0 }

/-- `raise Fault(code, addr, data)`: the first fault since reset is recorded, a later one changes nothing
(60_exceptions R603). This is the block's one trap entry (R615). -/
def State.raiseFault (s : State) (code : FaultCode) (addr data : Word) : State :=
  if s.fault then s else { s with fault := true, faultCode := code, faultAddr := addr, faultData := data }

/-- A reset of the block: every piece of the block's state at its reset value (70_reset_and_hazards R701). The
environment's fields are not the block's and stay. It is the only way out of the fault state (60_exceptions R616). -/
def State.resetBlock (s : State) : State :=
  { State.reset with rstIn := s.rstIn, events := s.events, rdata := s.rdata, draws := s.draws }

/-- The byte address of CMD, `0x003 * WB`: the FAULTADDR of every command fault (10_state R133). -/
def cmdAddr : Word := 0x18

/-- The slot a command reads: every opcode with MS but MODLOAD (60_exceptions R602, check 2). -/
def inputSlot : Instr → Option SlotIx
  | .modload _ _ => none
  | .expand _ s => some s
  | .mov _ _ => none
  | .addc _ _ _ => none
  | .subb _ _ _ => none
  | .modadd _ _ _ s => some s
  | .modsub _ _ _ s => some s
  | .montmul _ _ _ s => some s
  | .tomont _ _ s => some s
  | .frommont _ _ s => some s
  | .modmul _ _ _ s => some s
  | .modexp _ _ _ s => some s
  | .modexps _ _ s => some s
  | .select _ _ _ _ => none
  | .equal _ _ _ => none
  | .iszero _ _ => none
  | .isone _ _ => none
  | .isminusone _ _ s => some s
  | .isodd _ _ => none
  | .cand _ _ _ => none
  | .cor _ _ _ => none
  | .modinv _ _ s => some s
  | .gcd _ _ _ => none

/-- The commands that need an odd modulus (60_exceptions R602, check 3). -/
def needsOdd : Instr → Bool
  | .modload _ _ => false
  | .expand _ _ => false
  | .mov _ _ => false
  | .addc _ _ _ => false
  | .subb _ _ _ => false
  | .modadd _ _ _ _ => false
  | .modsub _ _ _ _ => false
  | .montmul _ _ _ _ => true
  | .tomont _ _ _ => true
  | .frommont _ _ _ => true
  | .modmul _ _ _ _ => true
  | .modexp _ _ _ _ => true
  | .modexps _ _ _ => true
  | .select _ _ _ _ => false
  | .equal _ _ _ => false
  | .iszero _ _ => false
  | .isone _ _ => false
  | .isminusone _ _ _ => false
  | .isodd _ _ => false
  | .cand _ _ _ => false
  | .cor _ _ _ => false
  | .modinv _ _ _ => false
  | .gcd _ _ _ => false

/-- The length conditions under "Faults" in each command's rule (60_exceptions R602, check 4). -/
def sizeOk (i : Instr) (s : State) : Bool :=
  match i with
  | .modload _ _ => true
  | .expand d k => (s.N d).len ≤ (s.M k).len
  | .mov _ _ => true
  | .addc _ a b => (s.N a).len = (s.N b).len
  | .subb _ a b => (s.N a).len = (s.N b).len
  | .modadd _ a b k => (s.N a).len = (s.M k).len ∧ (s.N b).len = (s.M k).len
  | .modsub _ a b k => (s.N a).len = (s.M k).len ∧ (s.N b).len = (s.M k).len
  | .montmul _ a b k => (s.N a).len = (s.M k).len ∧ (s.N b).len = (s.M k).len
  | .tomont _ a k => (s.N a).len = (s.M k).len
  | .frommont _ a k => (s.N a).len = (s.M k).len
  | .modmul _ a b k => (s.N a).len = (s.M k).len ∧ (s.N b).len = (s.M k).len
  | .modexp _ a _ k => (s.N a).len = (s.M k).len
  | .modexps _ a k => (s.N a).len = (s.M k).len
  | .select _ _ a b => (s.N a).len = (s.N b).len
  | .equal _ a b => (s.N a).len = (s.N b).len
  | .iszero _ _ => true
  | .isone _ _ => true
  | .isminusone _ a k => (s.N a).len = (s.M k).len
  | .isodd _ _ => true
  | .cand _ _ _ => true
  | .cor _ _ _ => true
  | .modinv _ a k => (s.N a).len = (s.M k).len
  | .gcd _ _ _ => true

/-- MODEXP's exponent register holds ELEN bytes: not `8*ELEN > W*N[RB].len` (60_exceptions R602, check 5). -/
def exponentFits (i : Instr) (s : State) : Bool :=
  match i with
  | .modexp _ _ b _ => 8 * s.elen.toNat ≤ W * (s.N b).len
  | _ => true

/-- `Check` of a command word that decodes: the first condition violated, NONE if none is (60_exceptions R602; check 1,
ILLEGAL, is the decoder's). -/
def check (i : Instr) (s : State) : FaultCode :=
  let slot := inputSlot i
  if slot.any (fun k => !(s.M k).valid) then .nomod
  else if needsOdd i && slot.any (fun k => !(s.M k).odd) then .even
  else if !sizeOk i s then .size
  else if !exponentFits i s then .explen
  else .noFault

/-- The end of the engine step: BUSY ← 0, DONE ← 1 (60_exceptions R611). -/
def State.complete (s : State) : State := { s with busy := false, done := true }

/-- A command that a check of R602 rejects: its fault is recorded and nothing of it is done (60_exceptions R603, R604).
BUSY is 0 already where the check is made at issue; the engine's copy of the check only drops the command (log 11). -/
def State.abandon (s : State) (i : Instr) (code : FaultCode) : State :=
  { s.raiseFault code cmdAddr (encode i) with busy := false }

/-- A command's rule whole: its faults in the order of R602, else its effect and its completion (60_exceptions R604, R611). -/
def command (i : Instr) (effect : State → State) (s : State) : Host.Outcome State Fault Refusal :=
  if check i s = .noFault then .next (effect s).complete else .next (s.abandon i (check i s))

end Sys2Proof.Machine
end

