-- ==== Sys2Proof/Machine/Map.lean ====
section
/-! DEFINITION. The host port's address map: which register a word index names, and back (20_memory R202; 10_state R125). -/

namespace Sys2Proof.Machine

open Sys2Proof.Config

/-- What a word of the port holds (20_memory R202, 10_state R125). -/
inductive Target where
  | id
  | ctrl
  | status
  | cmd
  | faultData
  | faultAddr
  | elen
  | eshort
  | minfo (k : SlotIx)
  | m0inv (k : SlotIx)
  | choice (k : ChoiceIx)
  /-- `N[r].w[i]` -/
  | natWord (r : NatIx) (i : Fin NMAX)
  /-- `N[r].len` -/
  | natLen (r : NatIx)
  /-- `M[k].w[i]` -/
  | modWord (k : SlotIx) (i : Fin NMAX)
  /-- `M[k].rr[i]` -/
  | rrWord (k : SlotIx) (i : Fin NMAX)
  /-- reads 0, ignores writes (R208) -/
  | reserved
  deriving DecidableEq, Repr

/-- The control and status registers, word indices 0x000 to 0x00F (10_state R125). -/
def controlTarget : Nat → Target
  | 0x0 => .id
  | 0x1 => .ctrl
  | 0x2 => .status
  | 0x3 => .cmd
  | 0x4 => .faultData
  | 0x5 => .faultAddr
  | 0x6 => .elen
  | 0x7 => .eshort
  | 0x8 => .minfo 0
  | 0x9 => .minfo 1
  | 0xA => .m0inv 0
  | 0xB => .m0inv 1
  | 0xC => .choice 0
  | 0xD => .choice 1
  | 0xE => .choice 2
  | 0xF => .choice 3
  | _ => .reserved

/-- A Nat window: `o` is the word index less 0x200, 0x100 indices to a register (20_memory R202). -/
def natTarget (o : Nat) : Target :=
  let r : NatIx := Fin.ofNat 16 (o / 0x100)
  if h : o % 0x100 < NMAX then .natWord r ⟨o % 0x100, h⟩
  else if o % 0x100 = 0xFF then .natLen r
  else .reserved

/-- A slot window: `o` is the word index less 0x1400, 0x200 indices to a slot, `rr` from 0x100 on (20_memory R202). -/
def slotTarget (o : Nat) : Target :=
  let k : SlotIx := Fin.ofNat 2 (o / 0x200)
  if h : o % 0x200 < NMAX then .modWord k ⟨o % 0x200, h⟩
  else if h : 0x100 ≤ o % 0x200 ∧ o % 0x200 - 0x100 < NMAX then .rrWord k ⟨o % 0x200 - 0x100, h.2⟩
  else .reserved

/-- What the word index `a` names (20_memory R202). -/
def targetOf (a : Nat) : Target :=
  if a < 0x10 then controlTarget a
  else if a < 0x200 then .reserved
  else if a < 0x1200 then natTarget (a - 0x200)
  else if a < 0x1400 then .reserved
  else if a < 0x1800 then slotTarget (a - 0x1400)
  else .reserved

/-- An access is aligned when `addr mod WB = 0` (20_memory R207). -/
def aligned (addr : Addr) : Bool := addr.toNat % WB == 0

/-- What an aligned byte address names: word index `addr / WB` (20_memory R202). -/
def portTarget (addr : Addr) : Target := targetOf (addr.toNat / WB)

/-- The word index of a register (20_memory R202); a reserved target has none of its own, 0x10 is one. -/
def indexOf : Target → Nat
  | .id => 0x0
  | .ctrl => 0x1
  | .status => 0x2
  | .cmd => 0x3
  | .faultData => 0x4
  | .faultAddr => 0x5
  | .elen => 0x6
  | .eshort => 0x7
  | .minfo k => 0x8 + k
  | .m0inv k => 0xA + k
  | .choice k => 0xC + k
  | .natWord r i => 0x200 + 0x100 * r + i
  | .natLen r => 0x200 + 0x100 * r + 0xFF
  | .modWord k i => 0x1400 + 0x200 * k + i
  | .rrWord k i => 0x1500 + 0x200 * k + i
  | .reserved => 0x10

/-- The byte address of a register on the port (20_memory R202): what a host program writes `X` for (30_encoding R311). -/
def addrOf (t : Target) : Addr := BitVec.ofNat 16 (indexOf t * WB)

end Sys2Proof.Machine
end

