-- ==== Sys2Proof/Machine/Bus.lean ====
section
/-! DEFINITION. The host's reads and writes: register values, the BUSY rules, range checks, the soft reset and the issue of a command (20_memory R206 to R210, R221, R222; 60 R601, R614; 10_state R125 to R136). -/

namespace Sys2Proof.Machine

open Sys2Proof.Config

/-- A byte address as the W-bit word FAULTADDR holds (10_state R133). -/
def busAddr (addr : Addr) : Word := addr.setWidth 64

/-- The value a register has (10_state R126 to R136; 20_memory R202, R208). -/
def State.peek (s : State) : Target → Word
  | .id => idWord
  | .ctrl => s.ctrlWord
  | .status => s.statusWord
  | .cmd => s.lastCmd
  | .faultData => s.faultData
  | .faultAddr => s.faultAddr
  | .elen => s.elen
  | .eshort => s.eshort
  | .minfo k => (s.M k).info
  | .m0inv k => (s.M k).m0inv
  | .choice k => s.C k
  | .natWord r i => (s.N r).w[i]
  | .natLen r => BitVec.ofNat 64 (s.N r).len
  | .modWord k i => (s.M k).w[i]
  | .rrWord k i => (s.M k).rr[i]
  | .reserved => 0

/-- The registers whose reads return `any_word` while BUSY = 1 (20_memory R221; STATUS is apart). -/
def volatileWhileBusy : Target → Bool
  | .minfo _ => true
  | .m0inv _ => true
  | .choice _ => true
  | .natWord _ _ => true
  | .natLen _ => true
  | .modWord _ _ => true
  | .rrWord _ _ => true
  | .id => false
  | .ctrl => false
  | .status => false
  | .cmd => false
  | .faultData => false
  | .faultAddr => false
  | .elen => false
  | .eshort => false
  | .reserved => false

/-- STATUS read while BUSY = 1: bits 3, 4 and 11:8 are three draws, every other bit is exact (20_memory R221). -/
def State.statusDraw (s : State) : Word :=
  s.statusLayout (freeBits 1 s.draws) (freeBits 1 (s.draws + 1)) (freeBits 4 (s.draws + 2))

/-- The port answers the host's read with `v`. -/
def State.answer (s : State) (v : Word) : State := { s with rdata := v }

/-- An aligned read (20_memory R208, R210, R221). -/
def State.readTarget (s : State) (t : Target) : State :=
  if s.busy && volatileWhileBusy t then (s.answer (s.nextDraw W)).drawn 1
  else if s.busy && t == .status then (s.answer s.statusDraw).drawn 3
  else s.answer (s.peek t)

/-- `MemRead(addr, WB)`: a misaligned read returns 0 and raises ALIGN (20_memory R207). -/
def State.hostRead (s : State) (addr : Addr) : State :=
  if aligned addr then s.readTarget (portTarget addr)
  else (s.raiseFault .align (busAddr addr) 0).answer 0

/-- The issue of a legal command word: PEND ← v[31:0], BUSY ← 1, DONE ← 0 (60_exceptions R601). -/
def State.latch (s : State) (v : Word) : State :=
  { s with pend := v.extractLsb' 0 32, busy := true, done := false }

/-- `Check(v)` of the word written to CMD (60_exceptions R602): ILLEGAL first, then the checks of the command. -/
def State.checkWord (s : State) (v : Word) : FaultCode :=
  match decode v with
  | .error _ => .illegal
  | .ok i => check i s

/-- A write of `v` to CMD (60_exceptions R601; 10_state R130). -/
def State.writeCmd (s : State) (v : Word) : State :=
  let t := { s with lastCmd := v }
  if s.fault then t
  else if s.busy then t.raiseFault .busy cmdAddr v
  else if s.checkWord v = .noFault then t.latch v
  else t.raiseFault (s.checkWord v) cmdAddr v

/-- A write of `v` to CTRL: SRST = 1 resets, else the two enables are stored (10_state R126; 70_reset_and_hazards R702). -/
def State.writeCtrl (s : State) (v : Word) : State :=
  if v.getLsbD 0 then s.resetBlock else { s with doneie := v.getLsbD 1, faultie := v.getLsbD 2 }

/-- A write of `v` to STATUS: bit 1 clears DONE, nothing else happens (10_state R129). -/
def State.writeStatus (s : State) (v : Word) : State := if v.getLsbD 1 then { s with done := false } else s

/-- A write the engine owns while BUSY = 1 is dropped and raises BUSY (20_memory R222), else `store` decides. -/
def State.guardBusy (s : State) (addr : Addr) (v : Word) (store : State) : State :=
  if s.busy then s.raiseFault .busy (busAddr addr) v else store

/-- A write of `v` to LEN: stored if `v ≤ NMAX`, else dropped with BADLEN; no word changes (10_state R105). -/
def State.writeLen (s : State) (addr : Addr) (r : NatIx) (v : Word) : State :=
  if h : v.toNat < NMAX + 1 then s.setNat r { s.N r with len := ⟨v.toNat, h⟩ }
  else s.raiseFault .badlen (busAddr addr) v

/-- A write of `v` to ELEN: stored if `v ≤ EMAXB`, else dropped with BADLEN (10_state R127). -/
def State.writeElen (s : State) (addr : Addr) (v : Word) : State :=
  if v.toNat ≤ EMAXB then { s with elen := v } else s.raiseFault .badlen (busAddr addr) v

/-- A write of `v` to `N[r].w[i]`: stored whatever the length (10_state R105). -/
def State.writeWord (s : State) (r : NatIx) (i : Fin NMAX) (v : Word) : State :=
  s.setNat r { s.N r with w := (s.N r).w.set i v }

/-- An aligned write (20_memory R208, R210, R222; 60_exceptions R614): read-only and reserved words ignore it. -/
def State.writeTarget (s : State) (addr : Addr) (v : Word) : Target → State
  | .ctrl => s.writeCtrl v
  | .status => s.writeStatus v
  | .cmd => s.writeCmd v
  | .elen => s.guardBusy addr v (s.writeElen addr v)
  | .eshort => s.guardBusy addr v { s with eshort := v }
  | .natWord r i => s.guardBusy addr v (s.writeWord r i v)
  | .natLen r => s.guardBusy addr v (s.writeLen addr r v)
  | .id => s
  | .faultData => s
  | .faultAddr => s
  | .minfo _ => s
  | .m0inv _ => s
  | .choice _ => s
  | .modWord _ _ => s
  | .rrWord _ _ => s
  | .reserved => s

/-- `MemWrite(addr, WB, v)`: a misaligned write is dropped and raises ALIGN (20_memory R207; 60_exceptions R614). -/
def State.hostWrite (s : State) (addr : Addr) (v : Word) : State :=
  if aligned addr then s.writeTarget addr v (portTarget addr) else s.raiseFault .align (busAddr addr) v

end Sys2Proof.Machine
end

