-- ==== Sys2Proof/Machine/Exponentiation.lean ====
section
/-! DEFINITION. MODEXP and MODEXPS (44_exponentiation R461 to R464). -/

namespace Sys2Proof.Machine

/-- MODEXP nD, nA, nB, mS (44_exponentiation R463): the base N[A] to the exponent of R461, over exactly 8*ELEN exponent
bits. Only the base must be reduced. -/
def execModexp (d a b : NatIx) (k : SlotIx) (s : State) : Host.Outcome State Fault Refusal :=
  command (.modexp d a b k) (fun s =>
    s.writeResidue (s.reduced a k) d k ((s.M k).expResult (s.N a).val (s.exponent b) (8 * s.elen.toNat))) s

/-- MODEXPS nD, nA, mS (44_exponentiation R464): the base N[A] to the exponent ESHORT; exponent 0 gives 1. -/
def execModexps (d a : NatIx) (k : SlotIx) (s : State) : Host.Outcome State Fault Refusal :=
  command (.modexps d a k) (fun s =>
    s.writeResidue (s.reduced a k) d k ((s.M k).expShortResult (s.N a).val s.eshort.toNat)) s

end Sys2Proof.Machine
end

