-- ==== Sys2Proof/Machine/Montgomery.lean ====
section
/-! DEFINITION. MONTMUL, TOMONT, FROMMONT and MODMUL (43_montgomery R443 to R446). -/

namespace Sys2Proof.Machine

/-- MONTMUL nD, nA, nB, mS (43_montgomery R443): the Montgomery product of the two values. -/
def execMontmul (d a b : NatIx) (k : SlotIx) (s : State) : Host.Outcome State Fault Refusal :=
  command (.montmul d a b k) (fun s =>
    s.writeResidue (s.reduced a k && s.reduced b k) d k ((s.M k).mm (s.N a).val (s.N b).val)) s

/-- TOMONT nD, nA, mS (43_montgomery R444): the product with `rr`. -/
def execTomont (d a : NatIx) (k : SlotIx) (s : State) : Host.Outcome State Fault Refusal :=
  command (.tomont d a k) (fun s =>
    s.writeResidue (s.reduced a k) d k ((s.M k).mm (s.N a).val (s.M k).rrval)) s

/-- FROMMONT nD, nA, mS (43_montgomery R445): the product with the n-word value 1. -/
def execFrommont (d a : NatIx) (k : SlotIx) (s : State) : Host.Outcome State Fault Refusal :=
  command (.frommont d a k) (fun s => s.writeResidue (s.reduced a k) d k ((s.M k).mm (s.N a).val 1)) s

/-- MODMUL nD, nA, nB, mS (43_montgomery R446): into Montgomery form with `rr`, then the product. -/
def execModmul (d a b : NatIx) (k : SlotIx) (s : State) : Host.Outcome State Fault Refusal :=
  command (.modmul d a b k) (fun s =>
    s.writeResidue (s.reduced a k && s.reduced b k) d k
      ((s.M k).mm ((s.M k).mm (s.N a).val (s.M k).rrval) (s.N b).val)) s

end Sys2Proof.Machine
end

