-- ==== Sys2Proof/Machine/NatModulus.lean ====
section
/-! DEFINITION. MODLOAD, EXPAND and MOV (41_nat_and_modulus R403 to R405). -/

namespace Sys2Proof.Machine

open Sys2Proof.Config

/-- MODLOAD mS, nA (41_nat_and_modulus R403): a value ≤ 1 empties the slot and clears OKF, any other fills the slot
with the trimmed modulus and its constants and sets OKF. -/
def execModload (k : SlotIx) (a : NatIx) (s : State) : Host.Outcome State Fault Refusal :=
  command (.modload k a) (fun s =>
    let v := (s.N a).val
    if v ≤ 1 then { s.setSlot k Slot.empty with okf := false }
    else { s.setSlot k (Slot.load v) with okf := true }) s

/-- EXPAND nD, mS (41_nat_and_modulus R404): the value is kept, the length becomes the modulus length. -/
def execExpand (d : NatIx) (k : SlotIx) (s : State) : Host.Outcome State Fault Refusal :=
  command (.expand d k) (fun s => s.writeNat d (s.N d).val (s.M k).len) s

/-- MOV nD, nA (41_nat_and_modulus R405). -/
def execMov (d a : NatIx) (s : State) : Host.Outcome State Fault Refusal :=
  command (.mov d a) (fun s => s.writeNat d (s.N a).val (s.N a).len) s

end Sys2Proof.Machine
end

