-- ==== Sys2Proof/Machine/SelectCompare.lean ====
section
/-! DEFINITION. SELECT, the predicates EQUAL, ISZERO, ISONE, ISMINUSONE and ISODD, and CAND and COR (45_select_compare R483 to R490). -/

namespace Sys2Proof.Machine

/-- SELECT nD, cK, nA, nB (45_select_compare R483): the bitmask blend of the two word sequences. -/
def execSelect (d : NatIx) (k : ChoiceIx) (a b : NatIx) (s : State) : Host.Outcome State Fault Refusal :=
  command (.select d k a b) (fun s =>
    s.writeNat d (wordsVal (blendWords (s.C k) (s.N a).words (s.N b).words)) (s.N a).len) s

/-- EQUAL cK, nA, nB (45_select_compare R484): every word pair is compared. -/
def execEqual (k : ChoiceIx) (a b : NatIx) (s : State) : Host.Outcome State Fault Refusal :=
  command (.equal k a b) (fun s => s.setChoice k (choiceOf (diffWords (s.N a).words (s.N b).words == 0))) s

/-- ISZERO cK, nA (45_select_compare R485). -/
def execIszero (k : ChoiceIx) (a : NatIx) (s : State) : Host.Outcome State Fault Refusal :=
  command (.iszero k a) (fun s => s.setChoice k (choiceOf ((s.N a).val == 0))) s

/-- ISONE cK, nA (45_select_compare R486). -/
def execIsone (k : ChoiceIx) (a : NatIx) (s : State) : Host.Outcome State Fault Refusal :=
  command (.isone k a) (fun s => s.setChoice k (choiceOf ((s.N a).val == 1))) s

/-- ISMINUSONE cK, nA, mS (45_select_compare R487): `val(N[a]) = mval(s) - 1`, said without subtraction. -/
def execIsminusone (k : ChoiceIx) (a : NatIx) (m : SlotIx) (s : State) : Host.Outcome State Fault Refusal :=
  command (.isminusone k a m) (fun s => s.setChoice k (choiceOf ((s.N a).val + 1 == (s.M m).mval))) s

/-- ISODD cK, nA (45_select_compare R488). -/
def execIsodd (k : ChoiceIx) (a : NatIx) (s : State) : Host.Outcome State Fault Refusal :=
  command (.isodd k a) (fun s => s.setChoice k (choiceOf ((s.N a).val % 2 == 1))) s

/-- CAND cK, cA, cB (45_select_compare R489). -/
def execCand (k ka kb : ChoiceIx) (s : State) : Host.Outcome State Fault Refusal :=
  command (.cand k ka kb) (fun s => s.setChoice k (s.C ka &&& s.C kb)) s

/-- COR cK, cA, cB (45_select_compare R490). -/
def execCor (k ka kb : ChoiceIx) (s : State) : Host.Outcome State Fault Refusal :=
  command (.cor k ka kb) (fun s => s.setChoice k (s.C ka ||| s.C kb)) s

end Sys2Proof.Machine
end

