-- ==== Sys2Proof/Machine/VarTime.lean ====
section
/-! DEFINITION. MODINV and GCD (46_vartime R513, R514). -/

namespace Sys2Proof.Machine

open Sys2Proof.Config

/-- MODINV nD, nA, mS (46_vartime R513): the inverse and OKF = 1, or OKF = 0 with N[D] unchanged. An unreduced source
draws both N[D] and OKF (41_nat_and_modulus R402). -/
def execModinv (d a : NatIx) (k : SlotIx) (s : State) : Host.Outcome State Fault Refusal :=
  command (.modinv d a k) (fun s =>
    let x := (s.N a).val
    let m := (s.M k).mval
    if s.reduced a k then
      if Nat.gcd x m = 1 then { s.writeNat d (inv x m) (s.M k).len with okf := true } else { s with okf := false }
    else
      let t := s.drawNat d (s.M k).len
      { t.drawn 1 with okf := t.nextDraw 1 == 1 }) s

/-- GCD nD, nA, nB (46_vartime R514): the divisor at the length of N[B] and OKF = 1, or OKF = 0 with N[D] unchanged. -/
def execGcd (d a b : NatIx) (s : State) : Host.Outcome State Fault Refusal :=
  command (.gcd d a b) (fun s =>
    let x := (s.N a).val
    let y := (s.N b).val
    if x = 0 ∨ y = 0 ∨ (x % 2 = 0 ∧ y % 2 = 0) then { s with okf := false }
    else { s.writeNat d (Nat.gcd x y) (s.N b).len with okf := true }) s

end Sys2Proof.Machine
end

