-- ==== Sys2Proof/Machine/WordAdder.lean ====
section
/-! DEFINITION. ADDC, SUBB, MODADD and MODSUB (42_word_adder R421 to R424). -/

namespace Sys2Proof.Machine

open Sys2Proof.Config

/-- ADDC nD, nA, nB (42_word_adder R421): CARRY is the carry out. -/
def execAddc (d a b : NatIx) (s : State) : Host.Outcome State Fault Refusal :=
  command (.addc d a b) (fun s =>
    let r := addWords (s.N a).words (s.N b).words false
    { s.writeNat d (wordsVal r.1) (s.N a).len with carry := r.2 }) s

/-- SUBB nD, nA, nB (42_word_adder R422): CARRY is the borrow out. -/
def execSubb (d a b : NatIx) (s : State) : Host.Outcome State Fault Refusal :=
  command (.subb d a b) (fun s =>
    let r := subWords (s.N a).words (s.N b).words false
    { s.writeNat d (wordsVal r.1) (s.N a).len with carry := r.2 }) s

/-- The value MODADD selects: the sum, or the sum less the modulus when it carried out or did not borrow
(42_word_adder R423). -/
def modaddValue (as bs ms : List Word) : Nat :=
  let sum := addWords as bs false
  let red := subWords sum.1 ms false
  if sum.2 || !red.2 then wordsVal red.1 else wordsVal sum.1

/-- The value MODSUB selects: the difference, or the difference plus the modulus when it borrowed (42_word_adder R424). -/
def modsubValue (as bs ms : List Word) : Nat :=
  let diff := subWords as bs false
  let back := addWords diff.1 ms false
  if diff.2 then wordsVal back.1 else wordsVal diff.1

/-- MODADD nD, nA, nB, mS (42_word_adder R423). Its inner carry and borrow are not architectural: no flag is written. -/
def execModadd (d a b : NatIx) (k : SlotIx) (s : State) : Host.Outcome State Fault Refusal :=
  command (.modadd d a b k) (fun s =>
    s.writeResidue (s.reduced a k && s.reduced b k) d k (modaddValue (s.N a).words (s.N b).words (s.M k).words)) s

/-- MODSUB nD, nA, nB, mS (42_word_adder R424). No flag is written. -/
def execModsub (d a b : NatIx) (k : SlotIx) (s : State) : Host.Outcome State Fault Refusal :=
  command (.modsub d a b k) (fun s =>
    s.writeResidue (s.reduced a k && s.reduced b k) d k (modsubValue (s.N a).words (s.N b).words (s.M k).words)) s

end Sys2Proof.Machine
end

