-- ==== Sys2Proof/Machine/Dispatch.lean ====
section
/-! DEFINITION. What a command does when the engine executes it (60_exceptions R611): one arm per command, each one call of its meaning. -/

namespace Sys2Proof.Machine

def exec (i : Instr) (s : State) : Host.Outcome State Fault Refusal :=
  match i with
  | .modload k a => Sys2Proof.Machine.execModload k a s
  | .expand d k => Sys2Proof.Machine.execExpand d k s
  | .mov d a => Sys2Proof.Machine.execMov d a s
  | .addc d a b => Sys2Proof.Machine.execAddc d a b s
  | .subb d a b => Sys2Proof.Machine.execSubb d a b s
  | .modadd d a b k => Sys2Proof.Machine.execModadd d a b k s
  | .modsub d a b k => Sys2Proof.Machine.execModsub d a b k s
  | .montmul d a b k => Sys2Proof.Machine.execMontmul d a b k s
  | .tomont d a k => Sys2Proof.Machine.execTomont d a k s
  | .frommont d a k => Sys2Proof.Machine.execFrommont d a k s
  | .modmul d a b k => Sys2Proof.Machine.execModmul d a b k s
  | .modexp d a b k => Sys2Proof.Machine.execModexp d a b k s
  | .modexps d a k => Sys2Proof.Machine.execModexps d a k s
  | .select d k a b => Sys2Proof.Machine.execSelect d k a b s
  | .equal k a b => Sys2Proof.Machine.execEqual k a b s
  | .iszero k a => Sys2Proof.Machine.execIszero k a s
  | .isone k a => Sys2Proof.Machine.execIsone k a s
  | .isminusone k a m => Sys2Proof.Machine.execIsminusone k a m s
  | .isodd k a => Sys2Proof.Machine.execIsodd k a s
  | .cand k ka kb => Sys2Proof.Machine.execCand k ka kb s
  | .cor k ka kb => Sys2Proof.Machine.execCor k ka kb s
  | .modinv d a k => Sys2Proof.Machine.execModinv d a k s
  | .gcd d a b => Sys2Proof.Machine.execGcd d a b s

end Sys2Proof.Machine
end

