-- ==== Sys2Proof/Machine/Transition.lean ====
section
/-! DEFINITION. One transition of the interleaving of host accesses, engine steps and the reset input (20_memory R223; 60_exceptions R611; 70_reset_and_hazards R701). -/

namespace Sys2Proof.Machine

/-- The engine step: Exec(PEND) (60_exceptions R611). While BUSY = 0 the engine has no step, and nothing happens. -/
def engineStep (s : State) : Host.Outcome State Fault Refusal :=
  if s.busy then
    match decodeCommand s.pend with
    | .ok i => exec i s
    | .error _ => .fault .illegalPend
  else .next s

/-- A move while `rst` is asserted: every piece of state holds its reset value, so a write, an engine turn and a
misaligned access leave nothing, and a read answers from the reset state (70_reset_and_hazards R701; log 5). -/
def State.heldInReset (s : State) : Event → State
  | .read addr => if aligned addr then s.resetBlock.answer (s.resetBlock.peek (portTarget addr)) else s.resetBlock.answer 0
  | .write _ _ => s.resetBlock
  | .engine => s.resetBlock
  | .rst level => { s.resetBlock with rstIn := level }

/-- A move of the environment while `rst` is not asserted (20_memory R223). -/
def liveEvent (s : State) : Event → Host.Outcome State Fault Refusal
  | .read addr => .next (s.hostRead addr)
  | .write addr v => .next (s.hostWrite addr v)
  | .engine => engineStep s
  | .rst level => if level then .next { s.resetBlock with rstIn := true } else .next s

/-- One transition: the environment's next move, or, when it has none left, the engine's step, which is always
eventually taken (60_exceptions R611; log 1, 2). An idle block with no move coming stays as it is (R627). -/
def transition (s : State) : Host.Outcome State Fault Refusal :=
  match s.events with
  | [] => if s.rstIn then .next s.resetBlock else engineStep s
  | e :: rest =>
    let t := { s with events := rest }
    if s.rstIn then .next (t.heldInReset e) else liveEvent t e

/-- `s` with the command word `w` where the engine takes its next command, and the engine's turn next: PEND holds it,
BUSY is 1, `rst` is low, and the next event is the engine's (log 9). -/
def State.placeCommand (s : State) (w : BitVec 32) : State :=
  { s with pend := w, busy := true, rstIn := false, events := .engine :: s.events }

end Sys2Proof.Machine
end

