-- ==== Sys2Proof/Machine/Step.lean ====
section
/-! DEFINITION. The one step of the machine, and where a command stands for it to run next. -/

namespace Sys2Proof.Machine

/-- One step: one transition of the block and its environment (20_memory R223). -/
def step (s : State) : Host.Outcome State Fault Refusal := transition s

/-- `s` with the command whose word is `w` placed so that the next step executes it (log 9). A command is one 32-bit
word, so nothing lies above it (30_encoding R301). -/
def State.withFetchWord (s : State) (nbits w : Nat) : State := s.placeCommand (BitVec.ofNat 32 (w % 2 ^ nbits))

end Sys2Proof.Machine
end

