-- ==== Sys2Proof/Machine/HostProgram.lean ====
section
/-! DEFINITION. The host's side: pseudo-instructions, assembler syntax, host program lines, and byte buffers (30_encoding R309 to R311; 20_memory R205). -/

namespace Sys2Proof.Machine

open Sys2Proof.Config

/-- `montsqr nD, nA, mS` (30_encoding R310). -/
def montsqr (d a : NatIx) (k : SlotIx) : Instr := .montmul d a a k

/-- `modsqr nD, nA, mS` (30_encoding R310). -/
def modsqr (d a : NatIx) (k : SlotIx) : Instr := .modmul d a a k

/-- `moddbl nD, nA, mS` (30_encoding R310). -/
def moddbl (d a : NatIx) (k : SlotIx) : Instr := .modadd d a a k

/-- `cmov nD, cK, nA` (30_encoding R310). -/
def cmov (d : NatIx) (k : ChoiceIx) (a : NatIx) : Instr := .select d k a d

/-- `cmovn nD, cK, nB` (30_encoding R310). -/
def cmovn (d : NatIx) (k : ChoiceIx) (b : NatIx) : Instr := .select d k d b

/-- `ccopy cK, cA` (30_encoding R310). -/
def ccopy (k ka : ChoiceIx) : Instr := .cand k ka ka

/-- `nR` (30_encoding R309). -/
def natName (r : NatIx) : String := "n" ++ toString r.val

/-- `mS` (30_encoding R309). -/
def slotName (k : SlotIx) : String := "m" ++ toString k.val

/-- `cK` (30_encoding R309). -/
def choiceName (k : ChoiceIx) : String := "c" ++ toString k.val

/-- A line of assembler: the mnemonic, then the operands separated by commas (30_encoding R309). -/
def asmLine (mnemonic : String) (operands : List String) : String := mnemonic ++ " " ++ String.intercalate ", " operands

/-- The assembler syntax of a command (30_encoding R309). -/
def asm : Instr → String
  | .modload k a => asmLine "modload" [slotName k, natName a]
  | .expand d k => asmLine "expand" [natName d, slotName k]
  | .mov d a => asmLine "mov" [natName d, natName a]
  | .addc d a b => asmLine "addc" [natName d, natName a, natName b]
  | .subb d a b => asmLine "subb" [natName d, natName a, natName b]
  | .modadd d a b k => asmLine "modadd" [natName d, natName a, natName b, slotName k]
  | .modsub d a b k => asmLine "modsub" [natName d, natName a, natName b, slotName k]
  | .montmul d a b k => asmLine "montmul" [natName d, natName a, natName b, slotName k]
  | .tomont d a k => asmLine "tomont" [natName d, natName a, slotName k]
  | .frommont d a k => asmLine "frommont" [natName d, natName a, slotName k]
  | .modmul d a b k => asmLine "modmul" [natName d, natName a, natName b, slotName k]
  | .modexp d a b k => asmLine "modexp" [natName d, natName a, natName b, slotName k]
  | .modexps d a k => asmLine "modexps" [natName d, natName a, slotName k]
  | .select d k a b => asmLine "select" [natName d, choiceName k, natName a, natName b]
  | .equal k a b => asmLine "equal" [choiceName k, natName a, natName b]
  | .iszero k a => asmLine "iszero" [choiceName k, natName a]
  | .isone k a => asmLine "isone" [choiceName k, natName a]
  | .isminusone k a m => asmLine "isminusone" [choiceName k, natName a, slotName m]
  | .isodd k a => asmLine "isodd" [choiceName k, natName a]
  | .cand k ka kb => asmLine "cand" [choiceName k, choiceName ka, choiceName kb]
  | .cor k ka kb => asmLine "cor" [choiceName k, choiceName ka, choiceName kb]
  | .modinv d a k => asmLine "modinv" [natName d, natName a, slotName k]
  | .gcd d a b => asmLine "gcd" [natName d, natName a, natName b]

/-- `wr X, v` (30_encoding R311). -/
def wr (t : Target) (v : Word) : Event := .write (addrOf t) v

/-- `rd X` (30_encoding R311). -/
def rd (t : Target) : Event := .read (addrOf t)

/-- `issue <command>`: the CMD write alone (30_encoding R311). -/
def issue (i : Instr) : Event := wr .cmd (encode i)

/-- A command line: the CMD write and a `poll` whose STATUS read comes after the engine's step (30_encoding R311). A
poll's earlier reads, which see BUSY = 1, change nothing but the draws and are left out. -/
def commandLine (i : Instr) : List Event := [issue i, .engine, rd .status]

/-- The integer a big-endian byte buffer stands for: `sum of b[j] * 2^(8*(L-1-j))` (20_memory R205). -/
def bufferValue : List (BitVec 8) → Nat
  | [] => 0
  | b :: bs => b.toNat * 2 ^ (8 * bs.length) + bufferValue bs

/-- The length in words of a buffer of `L` bytes: `ceil(L/WB)` (20_memory R205). -/
def bufferLen (L : Nat) : Nat := (L + (WB - 1)) / WB

/-- The host's writes that load a buffer into a Nat register: LEN, then each word (20_memory R205). -/
def loadBuffer (r : NatIx) (b : List (BitVec 8)) : List Event :=
  wr (.natLen r) (BitVec.ofNat 64 (bufferLen b.length)) ::
    (List.range (bufferLen b.length)).map fun i => wr (.natWord r (Fin.ofNat NMAX i)) (wordAt (bufferValue b) i)

/-- The `n` bytes of a value, big-endian and zero-padded: the reverse conversion (20_memory R205). -/
def bytesOf (n v : Nat) : List (BitVec 8) :=
  (List.range n).map fun j => BitVec.ofNat 8 (v >>> (8 * (n - 1 - j)))

/-- The bytes a residue of a slot serialises to, `ceil(M[s].bits/8)` of them (20_memory R205). -/
def residueBytes (m : Slot) (v : Nat) : List (BitVec 8) := bytesOf ((m.bits + 7) / 8) v

end Sys2Proof.Machine
end

