-- ==== Sys2Proof/Machine/Timing.lean ====
section
/-! DEFINITION. The timing class of each command and what its cycle count may depend on (00_scope R12, R25; 70_reset_and_hazards R731). The step itself carries no time (log 7). -/

namespace Sys2Proof.Machine

/-- Constant-time or variable-time (00_scope R25). -/
inductive TimingClass where
  | constantTime
  | variableTime
  deriving DecidableEq, Repr

/-- MODEXPS, MODINV and GCD are VT. Every other command is CT (00_scope R25). -/
def timingClass : Instr → TimingClass
  | .modexps _ _ _ => .variableTime
  | .modinv _ _ _ => .variableTime
  | .gcd _ _ _ => .variableTime
  | .modload _ _ => .constantTime
  | .expand _ _ => .constantTime
  | .mov _ _ => .constantTime
  | .addc _ _ _ => .constantTime
  | .subb _ _ _ => .constantTime
  | .modadd _ _ _ _ => .constantTime
  | .modsub _ _ _ _ => .constantTime
  | .montmul _ _ _ _ => .constantTime
  | .tomont _ _ _ => .constantTime
  | .frommont _ _ _ => .constantTime
  | .modmul _ _ _ _ => .constantTime
  | .modexp _ _ _ _ => .constantTime
  | .select _ _ _ _ => .constantTime
  | .equal _ _ _ => .constantTime
  | .iszero _ _ => .constantTime
  | .isone _ _ => .constantTime
  | .isminusone _ _ _ => .constantTime
  | .isodd _ _ => .constantTime
  | .cand _ _ _ => .constantTime
  | .cor _ _ _ => .constantTime

/-- All a cycle count may depend on: the opcode and the listed numbers, or, for MODINV and GCD, anything. -/
inductive TimingKey where
  | sizes (opcode : BitVec 8) (numbers : List Nat)
  | anything (i : Instr) (s : State)
  deriving DecidableEq, Repr

/-- The column "CYCLES may depend on" of 70_reset_and_hazards R731, command by command. DESIGN CHOICE (unsafe, log 7): R731
does not say whether the destination's old length is among "the announced lengths of the operands" for SELECT or "the
announced lengths involved" for MOV; here it is not, only the lengths of what the command reads are. -/
def timingKey (i : Instr) (s : State) : TimingKey :=
  let sizes := TimingKey.sizes i.fields.opc
  match i with
  | .modload _ a =>
    let v := (s.N a).val
    if v ≤ 1 then sizes [(s.N a).len, 0, 0] else sizes [(s.N a).len, minimalLen v, bitlen v]
  | .expand d k => sizes [(s.N d).len, (s.M k).len]
  | .mov _ a => sizes [(s.N a).len]
  | .addc _ a b => sizes [(s.N a).len, (s.N b).len]
  | .subb _ a b => sizes [(s.N a).len, (s.N b).len]
  | .modadd _ _ _ k => sizes [(s.M k).len]
  | .modsub _ _ _ k => sizes [(s.M k).len]
  | .montmul _ _ _ k => sizes [(s.M k).len]
  | .tomont _ _ k => sizes [(s.M k).len]
  | .frommont _ _ k => sizes [(s.M k).len]
  | .modmul _ _ _ k => sizes [(s.M k).len]
  | .modexp _ _ _ k => sizes [(s.M k).len, s.elen.toNat]
  | .modexps _ _ k => sizes [(s.M k).len, s.eshort.toNat]
  | .select _ _ a b => sizes [(s.N a).len, (s.N b).len]
  | .equal _ a b => sizes [(s.N a).len, (s.N b).len]
  | .iszero _ a => sizes [(s.N a).len]
  | .isone _ a => sizes [(s.N a).len]
  | .isminusone _ _ k => sizes [(s.M k).len]
  | .isodd _ a => sizes [(s.N a).len]
  | .cand _ _ _ => sizes []
  | .cor _ _ _ => sizes []
  | .modinv d a k => .anything (.modinv d a k) s
  | .gcd d a b => .anything (.gcd d a b) s

/-- The cycle count less one, as a function of what R731 lets it depend on. It has no body: the spec leaves CYCLES OPEN
(00_scope R12; log 7). -/
opaque freeCycles : TimingKey → Nat

/-- `CYCLES(cmd, s) ≥ 1` (00_scope R12; 70_reset_and_hazards R731). -/
def cycles (i : Instr) (s : State) : Nat := freeCycles (timingKey i s) + 1

end Sys2Proof.Machine
end

