-- ==== Sys2Proof/Safety.lean ====
section
/-! DEFINITION. What the claims speak in: what a register or a slot holds, which state a command may write, when a step is a reset, the invariant of the machine, and what is public. -/

namespace Sys2Proof.Machine

open Sys2Proof.Config

/-- A Nat register holds the `n`-word value `v`, with zero words from `n` on (10_state R106). -/
abbrev NatReg.Holds (x : NatReg) (v n : Nat) : Prop :=
  x.len.val = n ∧ x.val = v ∧ ∀ i : Fin NMAX, n ≤ i.val → x.w[i] = 0

/-- From `s` to `t` the Nat registers change in `d` alone, which then holds the `n`-word value `v`. -/
abbrev WritesNat (s t : State) (d : NatIx) (v n : Nat) : Prop :=
  (t.N d).Holds v n ∧ ∀ r, r ≠ d → t.N r = s.N r

/-- From `s` to `t` the choice registers change in `k` alone, which then holds `choice(p)`. -/
abbrev WritesChoice (s t : State) (k : ChoiceIx) (p : Prop) [Decidable p] : Prop :=
  t.C k = (if p then ones else 0) ∧ ∀ c, c ≠ k → t.C c = s.C c

/-- A slot holds the modulus `v` with its constants, each as 10_state R112 to R117 gives it. -/
abbrev Slot.Holds (m : Slot) (v : Nat) : Prop :=
  m.valid = true ∧ m.mval = v ∧ m.odd = decide (v % 2 = 1) ∧ m.bits = bitlen v ∧
  m.len.val = (bitlen v + (W - 1)) / W ∧ (∀ i : Fin NMAX, m.len.val ≤ i.val → m.w[i] = 0) ∧
  (if v % 2 = 1 then
    m.w[0] * m.m0inv = ones ∧ m.rrval = m.radix ^ 2 % v ∧ ∀ i : Fin NMAX, m.len.val ≤ i.val → m.rr[i] = 0
  else m.m0inv = 0 ∧ ∀ i : Fin NMAX, m.rr[i] = 0)

/-- A slot is in one of the two conditions MODLOAD and reset leave it in (10_state R112 to R118). -/
abbrev Slot.Wf (m : Slot) : Prop := if m.valid = true then 2 ≤ m.mval ∧ m.Holds m.mval else m = Slot.empty

/-- The Nat register a command may write (30_encoding R303, field RD). -/
def natDest : Instr → Option NatIx
  | .modload _ _ => none
  | .expand d _ => some d
  | .mov d _ => some d
  | .addc d _ _ => some d
  | .subb d _ _ => some d
  | .modadd d _ _ _ => some d
  | .modsub d _ _ _ => some d
  | .montmul d _ _ _ => some d
  | .tomont d _ _ => some d
  | .frommont d _ _ => some d
  | .modmul d _ _ _ => some d
  | .modexp d _ _ _ => some d
  | .modexps d _ _ => some d
  | .select d _ _ _ => some d
  | .equal _ _ _ => none
  | .iszero _ _ => none
  | .isone _ _ => none
  | .isminusone _ _ _ => none
  | .isodd _ _ => none
  | .cand _ _ _ => none
  | .cor _ _ _ => none
  | .modinv d _ _ => some d
  | .gcd d _ _ => some d

/-- The choice register a command writes (10_state R121). -/
def choiceDest : Instr → Option ChoiceIx
  | .modload _ _ => none
  | .expand _ _ => none
  | .mov _ _ => none
  | .addc _ _ _ => none
  | .subb _ _ _ => none
  | .modadd _ _ _ _ => none
  | .modsub _ _ _ _ => none
  | .montmul _ _ _ _ => none
  | .tomont _ _ _ => none
  | .frommont _ _ _ => none
  | .modmul _ _ _ _ => none
  | .modexp _ _ _ _ => none
  | .modexps _ _ _ => none
  | .select _ _ _ _ => none
  | .equal k _ _ => some k
  | .iszero k _ => some k
  | .isone k _ => some k
  | .isminusone k _ _ => some k
  | .isodd k _ => some k
  | .cand k _ _ => some k
  | .cor k _ _ => some k
  | .modinv _ _ _ => none
  | .gcd _ _ _ => none

/-- The slot a command writes: MODLOAD only (10_state R118). -/
def slotDest : Instr → Option SlotIx
  | .modload k _ => some k
  | .expand _ _ => none
  | .mov _ _ => none
  | .addc _ _ _ => none
  | .subb _ _ _ => none
  | .modadd _ _ _ _ => none
  | .modsub _ _ _ _ => none
  | .montmul _ _ _ _ => none
  | .tomont _ _ _ => none
  | .frommont _ _ _ => none
  | .modmul _ _ _ _ => none
  | .modexp _ _ _ _ => none
  | .modexps _ _ _ => none
  | .select _ _ _ _ => none
  | .equal _ _ _ => none
  | .iszero _ _ => none
  | .isone _ _ => none
  | .isminusone _ _ _ => none
  | .isodd _ _ => none
  | .cand _ _ _ => none
  | .cor _ _ _ => none
  | .modinv _ _ _ => none
  | .gcd _ _ _ => none

/-- The commands that write CARRY: ADDC and SUBB (10_state R122). -/
def writesCarry : Instr → Bool
  | .modload _ _ => false
  | .expand _ _ => false
  | .mov _ _ => false
  | .addc _ _ _ => true
  | .subb _ _ _ => true
  | .modadd _ _ _ _ => false
  | .modsub _ _ _ _ => false
  | .montmul _ _ _ _ => false
  | .tomont _ _ _ => false
  | .frommont _ _ _ => false
  | .modmul _ _ _ _ => false
  | .modexp _ _ _ _ => false
  | .modexps _ _ _ => false
  | .select _ _ _ _ => false
  | .equal _ _ _ => false
  | .iszero _ _ => false
  | .isone _ _ => false
  | .isminusone _ _ _ => false
  | .isodd _ _ => false
  | .cand _ _ _ => false
  | .cor _ _ _ => false
  | .modinv _ _ _ => false
  | .gcd _ _ _ => false

/-- The commands that write OKF: MODLOAD, MODINV and GCD (10_state R123). -/
def writesOkf : Instr → Bool
  | .modload _ _ => true
  | .expand _ _ => false
  | .mov _ _ => false
  | .addc _ _ _ => false
  | .subb _ _ _ => false
  | .modadd _ _ _ _ => false
  | .modsub _ _ _ _ => false
  | .montmul _ _ _ _ => false
  | .tomont _ _ _ => false
  | .frommont _ _ _ => false
  | .modmul _ _ _ _ => false
  | .modexp _ _ _ _ => false
  | .modexps _ _ _ => false
  | .select _ _ _ _ => false
  | .equal _ _ _ => false
  | .iszero _ _ => false
  | .isone _ _ => false
  | .isminusone _ _ _ => false
  | .isodd _ _ => false
  | .cand _ _ _ => false
  | .cor _ _ _ => false
  | .modinv _ _ _ => true
  | .gcd _ _ _ => true

/-- The bus words a completed command may change: its destinations and STATUS. -/
def mayChange (i : Instr) : Target → Bool
  | .natWord r _ => natDest i == some r
  | .natLen r => natDest i == some r
  | .modWord k _ => slotDest i == some k
  | .rrWord k _ => slotDest i == some k
  | .minfo k => slotDest i == some k
  | .m0inv k => slotDest i == some k
  | .choice c => choiceDest i == some c
  | .status => true
  | .id => false
  | .ctrl => false
  | .cmd => false
  | .faultData => false
  | .faultAddr => false
  | .elen => false
  | .eshort => false
  | .reserved => false

/-- The next step resets the block: `rst` is high or goes high, or the host writes CTRL with SRST = 1
(70_reset_and_hazards R701, R702). -/
def State.resetsNext (s : State) : Bool :=
  s.rstIn ||
  match s.events with
  | .rst level :: _ => level
  | .write addr v :: _ => addr == addrOf .ctrl && v.getLsbD 0
  | _ => false

/-- Every piece of the block's state is at its reset value, ID is its constant and `irq` is 0: the table of
70_reset_and_hazards R701, row by row. -/
abbrev State.BlockIsReset (s : State) : Prop :=
  (∀ r, (s.N r).len = 0 ∧ ∀ i : Fin NMAX, (s.N r).w[i] = 0) ∧
  (∀ k, (s.M k).valid = false ∧ (s.M k).odd = false ∧ (s.M k).len = 0 ∧ (s.M k).bits = 0 ∧ (s.M k).m0inv = 0 ∧
    ∀ i : Fin NMAX, (s.M k).w[i] = 0 ∧ (s.M k).rr[i] = 0) ∧
  (∀ c, s.C c = 0) ∧ s.carry = false ∧ s.okf = false ∧ s.ctrlWord = 0 ∧ s.doneie = false ∧ s.faultie = false ∧
  s.statusWord = 0 ∧ s.busy = false ∧ s.done = false ∧ s.fault = false ∧ s.faultCode = .noFault ∧
  s.lastCmd = 0 ∧ s.pend = 0 ∧ s.faultData = 0 ∧ s.faultAddr = 0 ∧ s.elen = 0 ∧ s.eshort = 0 ∧
  s.peek .id = 0x7F404001 ∧ s.irq = false

/-- The next step is the engine's: `rst` is low, BUSY = 1, and the environment gives it the turn or has no move left
(60_exceptions R611). -/
def State.engineNext (s : State) : Bool :=
  !s.rstIn && s.busy &&
  match s.events with
  | [] => true
  | .engine :: _ => true
  | _ => false

/-- PEND holds a command that every check of R602 accepts in this state (60_exceptions R601). -/
def State.pendChecked (s : State) : Bool :=
  match decodeCommand s.pend with
  | .ok i => check i s == .noFault
  | .error _ => false

/-- The invariant of the machine: the slots are as MODLOAD or reset leaves them, every choice is 0 or ONES, ELEN is
legal, the fault record is empty exactly while FAULT = 0, a pending command is a checked one that is not done, and the
block is reset while `rst` is high. -/
abbrev State.Inv (s : State) : Prop :=
  (∀ k, (s.M k).Wf) ∧ (∀ k, s.C k = 0 ∨ s.C k = ones) ∧ s.elen.toNat ≤ EMAXB ∧
  (s.fault = false → s.faultCode = .noFault ∧ s.faultAddr = 0 ∧ s.faultData = 0) ∧
  (s.fault = true → s.faultCode ≠ .noFault) ∧
  (s.busy = true → s.done = false ∧ s.pendChecked = true) ∧ (s.rstIn = true → s = s.resetBlock)

/-- Two states that agree on everything public: announced lengths, slot sizes, the control registers and the
environment's moves. They may differ in word values, modulus values, choices, CARRY and OKF (00_scope R25; 10_state R103). -/
abbrev PublicEq (s t : State) : Prop :=
  (∀ r, (s.N r).len = (t.N r).len) ∧
  (∀ k, (s.M k).valid = (t.M k).valid ∧ (s.M k).odd = (t.M k).odd ∧ (s.M k).len = (t.M k).len ∧ (s.M k).bits = (t.M k).bits) ∧
  s.doneie = t.doneie ∧ s.faultie = t.faultie ∧ s.busy = t.busy ∧ s.done = t.done ∧ s.fault = t.fault ∧
  s.faultCode = t.faultCode ∧ s.lastCmd = t.lastCmd ∧ s.faultData = t.faultData ∧ s.faultAddr = t.faultAddr ∧
  s.elen = t.elen ∧ s.eshort = t.eshort ∧ s.pend = t.pend ∧ s.rstIn = t.rstIn ∧ s.events = t.events

end Sys2Proof.Machine
end

