-- ==== Sys2Proof/Certificates/Slice0/Obligations.lean ====
section
/-! DEFINITION. The statements for the provers, from the numbered rules of spec/. -/

open Sys2Proof Sys2Proof.Machine Sys2Proof.Config

/-! ## Encoding -/

/-- 30_encoding R301 to R304: the decoder reads back every command, with every operand, from its word. -/
def Obligations.DecodeInvertsEncode : Prop := ∀ i : Instr, decode (encode i) = .ok i

/-- 30_encoding R306: a word spells at most one command, and it is that command's word. -/
def Obligations.EncodeInvertsDecode : Prop := ∀ (v : Word) (i : Instr), decode v = .ok i → encode i = v

/-- 30_encoding R303: a bus word is a command exactly when its bits 63:32 are 0, RSV is 0, the opcode is listed and
every field the opcode does not use is 0. -/
def Obligations.DecodeAcceptsExactlyLegalWords : Prop :=
  ∀ v : Word, (∃ i, decode v = .ok i) ↔
    v.extractLsb' 32 32 = 0 ∧ (Fields.unpack (v.extractLsb' 0 32)).wellFormed = true

/-- 30_encoding R312: the three example words, both ways. -/
def Obligations.SpecExampleWordsDecode : Prop :=
  (encode (.modmul 2 0 1 0) = 0x00010223 ∧ decode 0x00010223 = .ok (.modmul 2 0 1 0)) ∧
  (encode (.modmul 2 0 1 1) = 0x00410223 ∧ decode 0x00410223 = .ok (.modmul 2 0 1 1)) ∧
  (encode (.cand 3 1 2) = 0x00321046 ∧ decode 0x00321046 = .ok (.cand 3 1 2))

/-- 30_encoding R306: a word matches a row of the opcode table under its mask exactly when it decodes to a command of
the row's mnemonic. -/
def Obligations.OpcodeRowsMatchTheDecoder : Prop :=
  ∀ (w : BitVec 32), ∀ row ∈ opcodeTable,
    (w &&& row.mask = row.pattern ↔ ∃ i, decodeCommand w = .ok i ∧ i.mnemonic = row.mnemonic)

/-! ## Issue, engine and faults -/

/-- 60_exceptions R611: the engine's turn, with `rst` low and BUSY = 1, is the meaning of the command in PEND, whether
the environment gives it the turn or has no move left; the turn is taken off the list of moves and nothing else
happens around it. A command placed by `withFetchWord` runs so. 20_memory R209, R223: with `rst` low a read or a write
that comes next takes effect whole, as the step. R611: while BUSY = 0 the engine has no step. The list of moves, and that
a step in which nothing can happen changes nothing else, are the model's choice (log 1, 2); `rst` staying low is no move
of the block. -/
def Obligations.StepExecutesPendingCommand : Prop :=
  (∀ (s : State) (i : Instr) (rest : List Event), s.rstIn = false → s.busy = true → decodeCommand s.pend = .ok i →
    (s.events = .engine :: rest → step s = exec i { s with events := rest }) ∧ (s.events = [] → step s = exec i s)) ∧
  (∀ (s : State) (rest : List Event) (addr : Addr) (v : Word), s.rstIn = false →
    (s.events = .read addr :: rest → step s = .next ({ s with events := rest }.hostRead addr)) ∧
    (s.events = .write addr v :: rest → step s = .next ({ s with events := rest }.hostWrite addr v)) ∧
    (s.events = .rst false :: rest → step s = .next { s with events := rest }) ∧
    (s.busy = false → (s.events = .engine :: rest → step s = .next { s with events := rest }) ∧
      (s.events = [] → step s = .next s))) ∧
  (∀ (s : State) (w : Nat) (i : Instr), decodeTableWord 32 w = some i →
    step (s.withFetchWord 32 w) = exec i { s with pend := BitVec.ofNat 32 (w % 2 ^ 32), busy := true, rstIn := false })

/-- 60_exceptions R601, R605: a CMD write of a legal, accepted word to an idle block with no fault latches it; after a
fault it only stores LASTCMD; while BUSY = 1 it is the BUSY fault; an illegal word or one `Check` rejects is that fault. -/
def Obligations.CmdWriteIssuesOrIsTurnedAway : Prop :=
  ∀ (s : State) (v : Word),
    (s.fault = true → s.hostWrite (addrOf .cmd) v = { s with lastCmd := v }) ∧
    (s.fault = false → s.busy = true → s.hostWrite (addrOf .cmd) v =
      { s with lastCmd := v, fault := true, faultCode := .busy, faultAddr := 0x18, faultData := v }) ∧
    (∀ e, s.fault = false → s.busy = false → decode v = .error e → s.hostWrite (addrOf .cmd) v =
      { s with lastCmd := v, fault := true, faultCode := .illegal, faultAddr := 0x18, faultData := v }) ∧
    (∀ i, s.fault = false → s.busy = false → decode v = .ok i →
      (check i s ≠ .noFault → s.hostWrite (addrOf .cmd) v =
        { s with lastCmd := v, fault := true, faultCode := check i s, faultAddr := 0x18, faultData := v }) ∧
      (check i s = .noFault → s.hostWrite (addrOf .cmd) v =
        { s with lastCmd := v, pend := v.extractLsb' 0 32, busy := true, done := false } ∧
        decodeCommand (v.extractLsb' 0 32) = .ok i))

/-- 30_encoding R307: issuing a word with bits 63:32 or RSV non-zero, an unlisted opcode or a non-zero unused field
raises ILLEGAL and does nothing else (but that CMD then reads it); opcode 0x00 is illegal, so is the all-zero word. -/
def Obligations.IllegalWordFaultsIllegal : Prop :=
  (∀ (s : State) (v : Word), s.fault = false → s.busy = false →
    (v.extractLsb' 32 32 ≠ 0 ∨ (Fields.unpack (v.extractLsb' 0 32)).reservedClear = false ∨
      (Fields.unpack (v.extractLsb' 0 32)).opcodeListed = false ∨
      (Fields.unpack (v.extractLsb' 0 32)).unusedClear = false) →
    s.hostWrite (addrOf .cmd) v =
      { s with lastCmd := v, fault := true, faultCode := .illegal, faultAddr := 0x18, faultData := v }) ∧
  (∀ v : Word, v.extractLsb' 0 8 = 0 → ∃ r, decode v = .error r)

/-- 60_exceptions R602: `Check` of a CMD word is ILLEGAL for a word that is no command (30_encoding R307), else the first
fault of the command, spelled out for every command in the order NOMOD, EVEN, SIZE, EXPLEN: which slot must be valid,
which must be odd, which lengths are compared (41 R403 to R405; 42 R421 to R424; 43 R443 to R446; 44 R463, R464; 45 R483
to R490; 46 R513, R514). -/
def Obligations.ChecksReportTheFirstViolation : Prop :=
  (∀ (s : State) (v : Word),
    (∀ e, decode v = .error e → s.checkWord v = .illegal) ∧ (∀ i, decode v = .ok i → s.checkWord v = check i s)) ∧
  (∀ (s : State) (d a b : NatIx) (k : SlotIx) (c ka kb : ChoiceIx),
    (∀ i ∈ [Instr.modload k a, .mov d a, .iszero c a, .isone c a, .isodd c a, .cand c ka kb, .cor c ka kb, .gcd d a b],
      check i s = .noFault) ∧
    check (.expand d k) s =
      (if (s.M k).valid = false then .nomod else if (s.M k).len < (s.N d).len then .size else .noFault) ∧
    (∀ i ∈ [Instr.addc d a b, .subb d a b, .select d c a b, .equal c a b],
      check i s = if (s.N a).len ≠ (s.N b).len then .size else .noFault) ∧
    (∀ i ∈ [Instr.modadd d a b k, .modsub d a b k],
      check i s = if (s.M k).valid = false then .nomod
        else if (s.N a).len ≠ (s.M k).len ∨ (s.N b).len ≠ (s.M k).len then .size else .noFault) ∧
    (∀ i ∈ [Instr.isminusone c a k, .modinv d a k],
      check i s = if (s.M k).valid = false then .nomod
        else if (s.N a).len ≠ (s.M k).len then .size else .noFault) ∧
    (∀ i ∈ [Instr.montmul d a b k, .modmul d a b k],
      check i s = if (s.M k).valid = false then .nomod else if (s.M k).odd = false then .even
        else if (s.N a).len ≠ (s.M k).len ∨ (s.N b).len ≠ (s.M k).len then .size else .noFault) ∧
    (∀ i ∈ [Instr.tomont d a k, .frommont d a k, .modexps d a k],
      check i s = if (s.M k).valid = false then .nomod else if (s.M k).odd = false then .even
        else if (s.N a).len ≠ (s.M k).len then .size else .noFault) ∧
    check (.modexp d a b k) s =
      (if (s.M k).valid = false then .nomod else if (s.M k).odd = false then .even
        else if (s.N a).len ≠ (s.M k).len then .size
        else if W * (s.N b).len < 8 * s.elen.toNat then .explen else .noFault))

/-- 60_exceptions R604: a command a check rejects changes the fault record alone (and drops the turn it was given):
no Nat register, slot, choice, flag or PEND, and DONE is not cleared. That `exec` repeats the check of issue is the
model's choice, log 11. -/
def Obligations.FaultedCommandOnlyRecords : Prop :=
  ∀ (i : Instr) (s : State), check i s ≠ .noFault →
    (s.fault = false → exec i s = .next
      { s with busy := false, fault := true, faultCode := check i s, faultAddr := 0x18, faultData := encode i }) ∧
    (s.fault = true → exec i s = .next { s with busy := false })

/-- 43_montgomery R447: each command of the Montgomery family, and MODEXP and MODEXPS, faults EVEN on an even modulus. The
first clause is the spec's: the CMD write of its word to an idle block is the fault. The second is the model's choice,
log 11: `exec` given such a command, which no run does, repeats the check, records the fault and drops BUSY. -/
def Obligations.MontgomeryCommandsFaultEven : Prop :=
  ∀ (s : State) (d a b : NatIx) (k : SlotIx), (s.M k).valid = true → (s.M k).odd = false → s.fault = false →
    ∀ i ∈ [Instr.montmul d a b k, .tomont d a k, .frommont d a k, .modmul d a b k, .modexp d a b k, .modexps d a k],
      (s.busy = false → s.hostWrite (addrOf .cmd) (encode i) =
        { s with lastCmd := encode i, fault := true, faultCode := .even, faultAddr := 0x18, faultData := encode i }) ∧
      exec i s = .next { s with busy := false, fault := true, faultCode := .even, faultAddr := 0x18, faultData := encode i }

/-- 60_exceptions R603: raising a fault records it if none is recorded and changes nothing otherwise, and no step but a
reset clears or changes a recorded fault. -/
def Obligations.FirstFaultIsKeptUntilReset : Prop :=
  (∀ (s : State) (c : FaultCode) (a v : Word),
    (s.fault = false → s.raiseFault c a v = { s with fault := true, faultCode := c, faultAddr := a, faultData := v }) ∧
    (s.fault = true → s.raiseFault c a v = s)) ∧
  (∀ s t : State, s.fault = true → s.resetsNext = false → step s = .next t →
    t.fault = true ∧ t.faultCode = s.faultCode ∧ t.faultAddr = s.faultAddr ∧ t.faultData = s.faultData)

/-! ## The host port -/

/-- 20_memory R207: an access is aligned when its address is a multiple of 8; a misaligned write is dropped, a
misaligned read returns 0, and both raise ALIGN with the address (recorded if no fault is yet); an aligned read raises
no fault, an aligned write never raises ALIGN. -/
def Obligations.MisalignedAccessFaultsAlign : Prop :=
  ∀ (s : State) (addr : Addr) (v : Word),
    (addr.toNat % 8 ≠ 0 → s.fault = false →
      s.hostWrite addr v =
        { s with fault := true, faultCode := .align, faultAddr := addr.setWidth 64, faultData := v } ∧
      s.hostRead addr =
        { s with fault := true, faultCode := .align, faultAddr := addr.setWidth 64, faultData := 0, rdata := 0 }) ∧
    (addr.toNat % 8 ≠ 0 → s.fault = true → s.hostWrite addr v = s ∧ s.hostRead addr = { s with rdata := 0 }) ∧
    (addr.toNat % 8 = 0 →
      (s.hostRead addr).fault = s.fault ∧ ((s.hostWrite addr v).faultCode = .align → s.faultCode = .align))

/-- 20_memory R208: at a reserved word index of the map of R202 a read returns 0 and a write is ignored, and a write
to a read-only register or window is ignored; none raises a fault. -/
def Obligations.ReservedAndReadOnlyAreIgnored : Prop :=
  (∀ (s : State) (addr : Addr) (v : Word) (a : Nat), addr.toNat = 8 * a →
    ((0x10 ≤ a ∧ a < 0x200) ∨ (∃ r i, r < 16 ∧ 64 ≤ i ∧ i ≤ 0xFE ∧ a = 0x200 + 0x100 * r + i) ∨
      (0x1200 ≤ a ∧ a < 0x1400) ∨ (∃ k i, k < 2 ∧ 64 ≤ i ∧ i ≤ 0xFF ∧ a = 0x1400 + 0x200 * k + i) ∨
      (∃ k i, k < 2 ∧ 64 ≤ i ∧ i ≤ 0xFF ∧ a = 0x1500 + 0x200 * k + i) ∨ 0x1800 ≤ a) →
    s.hostRead addr = { s with rdata := 0 } ∧ s.hostWrite addr v = s) ∧
  (∀ (s : State) (v : Word) (k : SlotIx) (c : ChoiceIx) (i : Fin NMAX),
    ∀ t ∈ [Target.id, .faultData, .faultAddr, .minfo k, .m0inv k, .choice c, .modWord k i, .rrWord k i],
      s.hostWrite (addrOf t) v = s)

/-- 20_memory R202, 10_state R125: the byte address of each register is 8 times the word index the map gives it, named here
one by one; at that address, which is aligned, the port names that register, and at no other aligned address. -/
def Obligations.EachRegisterHasItsAddress : Prop :=
  (∀ t : Target, t ≠ .reserved → aligned (addrOf t) = true ∧ portTarget (addrOf t) = t) ∧
  (∀ addr : Addr, aligned addr = true → portTarget addr ≠ .reserved → addrOf (portTarget addr) = addr) ∧
  (∀ p ∈ [(Target.id, 0x000), (.ctrl, 0x001), (.status, 0x002), (.cmd, 0x003), (.faultData, 0x004), (.faultAddr, 0x005),
      (.elen, 0x006), (.eshort, 0x007), (.minfo 0, 0x008), (.minfo 1, 0x009), (.m0inv 0, 0x00A), (.m0inv 1, 0x00B),
      (.choice 0, 0x00C), (.choice 1, 0x00D), (.choice 2, 0x00E), (.choice 3, 0x00F)],
    (addrOf p.1).toNat = 8 * p.2) ∧
  (∀ (r : NatIx) (k : SlotIx) (i : Fin NMAX),
    (addrOf (.natWord r i)).toNat = 8 * (0x0200 + 0x100 * r + i) ∧
    (addrOf (.natLen r)).toNat = 8 * (0x0200 + 0x100 * r + 0xFF) ∧
    (addrOf (.modWord k i)).toNat = 8 * (0x1400 + 0x200 * k + i) ∧
    (addrOf (.rrWord k i)).toNat = 8 * (0x1500 + 0x200 * k + i))

/-- 10_state R132 to R136, 20_memory R202, R210: while the block is idle a read returns what the register holds and
changes nothing else: the slot views, the choices, every Nat, modulus and `rr` word, and the fault record, after a fault
too (60_exceptions R605). -/
def Obligations.IdleReadReturnsTheRegister : Prop :=
  ∀ (s : State) (r : NatIx) (k : SlotIx) (c : ChoiceIx) (i : Fin NMAX), s.busy = false →
    s.hostRead (addrOf (.natWord r i)) = { s with rdata := (s.N r).w[i] } ∧
    s.hostRead (addrOf (.natLen r)) = { s with rdata := BitVec.ofNat 64 (s.N r).len } ∧
    s.hostRead (addrOf (.modWord k i)) = { s with rdata := (s.M k).w[i] } ∧
    s.hostRead (addrOf (.rrWord k i)) = { s with rdata := (s.M k).rr[i] } ∧
    s.hostRead (addrOf (.m0inv k)) = { s with rdata := (s.M k).m0inv } ∧
    s.hostRead (addrOf (.choice c)) = { s with rdata := s.C c } ∧
    s.hostRead (addrOf .faultData) = { s with rdata := s.faultData } ∧
    s.hostRead (addrOf .faultAddr) = { s with rdata := s.faultAddr } ∧
    (∃ x, s.hostRead (addrOf (.minfo k)) = { s with rdata := x } ∧
      x.getLsbD 0 = (s.M k).valid ∧ x.getLsbD 1 = (s.M k).odd ∧ x.extractLsb' 2 6 = 0 ∧
      x.extractLsb' 8 8 = BitVec.ofNat 8 (s.M k).len ∧ x.extractLsb' 16 16 = BitVec.ofNat 16 (s.M k).bits ∧
      x.extractLsb' 32 32 = 0)

/-- 20_memory R221: while BUSY = 1 a read of a Nat, slot, MINFO, M0INV or choice word is a draw, STATUS bits 3, 4 and
11:8 are three draws and its other bits exact, and every other register reads exactly. No draw's value is claimed. -/
def Obligations.BusyReadsAreDraws : Prop :=
  ∀ (s : State) (r : NatIx) (k : SlotIx) (c : ChoiceIx) (i : Fin NMAX), s.busy = true →
    (∀ t ∈ [Target.natWord r i, .natLen r, .modWord k i, .rrWord k i, .minfo k, .m0inv k, .choice c],
      s.hostRead (addrOf t) = { s with rdata := freeBits W s.draws, draws := s.draws + 1 }) ∧
    (∃ x, s.hostRead (addrOf .status) = { s with rdata := x, draws := s.draws + 3 } ∧
      x.extractLsb' 3 1 = freeBits 1 s.draws ∧ x.extractLsb' 4 1 = freeBits 1 (s.draws + 1) ∧
      x.extractLsb' 8 4 = freeBits 4 (s.draws + 2) ∧
      ∀ j, j ≠ 3 → j ≠ 4 → ¬(8 ≤ j ∧ j ≤ 11) → x.getLsbD j = s.statusWord.getLsbD j) ∧
    s.hostRead (addrOf .id) = { s with rdata := 0x7F404001 } ∧
    s.hostRead (addrOf .ctrl) = { s with rdata := s.ctrlWord } ∧
    s.hostRead (addrOf .cmd) = { s with rdata := s.lastCmd } ∧
    s.hostRead (addrOf .faultData) = { s with rdata := s.faultData } ∧
    s.hostRead (addrOf .faultAddr) = { s with rdata := s.faultAddr } ∧
    s.hostRead (addrOf .elen) = { s with rdata := s.elen } ∧
    s.hostRead (addrOf .eshort) = { s with rdata := s.eshort }

/-- 20_memory R222: while BUSY = 1 a write to a Nat word, a LEN, ELEN or ESHORT is dropped and raises BUSY; with a fault
already recorded it is dropped. -/
def Obligations.BusyWritesAreDropped : Prop :=
  ∀ (s : State) (r : NatIx) (i : Fin NMAX) (v : Word), s.busy = true →
    ∀ t ∈ [Target.natWord r i, .natLen r, .elen, .eshort],
      (s.fault = false → s.hostWrite (addrOf t) v =
        { s with fault := true, faultCode := .busy, faultAddr := (addrOf t).setWidth 64, faultData := v }) ∧
      (s.fault = true → s.hostWrite (addrOf t) v = s)

/-- 20_memory R226, R222: from the issue of a command to its engine step no host access but a soft reset changes PEND,
BUSY or anything a command reads or writes. -/
def Obligations.OperandsAreFrozenWhileBusy : Prop :=
  ∀ (s : State) (addr : Addr) (v : Word), s.busy = true →
    (∀ t, t = s.hostRead addr ∨ (t = s.hostWrite addr v ∧ ¬(addr = addrOf .ctrl ∧ v.getLsbD 0 = true)) →
      t.nats = s.nats ∧ t.slots = s.slots ∧ t.choices = s.choices ∧ t.carry = s.carry ∧ t.okf = s.okf ∧
      t.elen = s.elen ∧ t.eshort = s.eshort ∧ t.pend = s.pend ∧ t.busy = true)

/-- 10_state R105: a host write to a Nat word stores it whatever the length; a write of `v ≤ NMAX` to LEN stores the
length and no word changes, so growing takes in what the words hold; a larger one is dropped with BADLEN. -/
def Obligations.HostWritesNatRegisters : Prop :=
  ∀ (s : State) (r : NatIx) (i : Fin NMAX) (v : Word), s.busy = false →
    (∃ t, s.hostWrite (addrOf (.natWord r i)) v = t ∧ t = { s with nats := t.nats } ∧ (∀ q, q ≠ r → t.N q = s.N q) ∧
      (t.N r).len = (s.N r).len ∧ (t.N r).w[i] = v ∧ ∀ j, j ≠ i → (t.N r).w[j] = (s.N r).w[j]) ∧
    (v.toNat ≤ NMAX → ∃ t, s.hostWrite (addrOf (.natLen r)) v = t ∧ t = { s with nats := t.nats } ∧
      (∀ q, q ≠ r → t.N q = s.N q) ∧ (t.N r).len.val = v.toNat ∧ (t.N r).w = (s.N r).w) ∧
    (NMAX < v.toNat → s.hostWrite (addrOf (.natLen r)) v =
      s.raiseFault .badlen ((addrOf (.natLen r)).setWidth 64) v)

/-- 10_state R127, R128: ELEN stores a value up to EMAXB, a larger one is dropped with BADLEN; ESHORT stores every
value; while BUSY = 1 both writes are dropped with BUSY; both read as stored, and both are 0 after reset. -/
def Obligations.ExponentRegisterWrites : Prop :=
  ∀ (s : State) (v : Word),
    (s.busy = false → v.toNat ≤ EMAXB → s.hostWrite (addrOf .elen) v = { s with elen := v }) ∧
    (s.busy = false → EMAXB < v.toNat → s.hostWrite (addrOf .elen) v =
      s.raiseFault .badlen ((addrOf .elen).setWidth 64) v) ∧
    (s.busy = false → s.hostWrite (addrOf .eshort) v = { s with eshort := v }) ∧
    (s.busy = true → s.hostWrite (addrOf .elen) v = s.raiseFault .busy ((addrOf .elen).setWidth 64) v ∧
      s.hostWrite (addrOf .eshort) v = s.raiseFault .busy ((addrOf .eshort).setWidth 64) v) ∧
    s.hostRead (addrOf .elen) = { s with rdata := s.elen } ∧ s.hostRead (addrOf .eshort) = { s with rdata := s.eshort } ∧
    State.reset.elen = 0 ∧ State.reset.eshort = 0

/-- 10_state R126: a CTRL write, in every state, is the soft reset if bit 0 is 1 (its enables are discarded and CTRL
reads 0) and else stores DONEIE and FAULTIE from bits 1 and 2; CTRL reads as those two bits, all others 0; they enable
`irq` on DONE and on FAULT; both are 0 after reset. -/
def Obligations.CtrlWritesEnablesOrResets : Prop :=
  (∀ (s : State) (v : Word),
    (v.getLsbD 0 = true → s.hostWrite (addrOf .ctrl) v = s.resetBlock ∧ (s.hostWrite (addrOf .ctrl) v).ctrlWord = 0) ∧
    (v.getLsbD 0 = false → s.hostWrite (addrOf .ctrl) v = { s with doneie := v.getLsbD 1, faultie := v.getLsbD 2 }) ∧
    s.hostRead (addrOf .ctrl) = { s with rdata := s.ctrlWord } ∧
    (∀ j, s.ctrlWord.getLsbD j = (if j = 1 then s.doneie else if j = 2 then s.faultie else false)) ∧
    s.irq = ((s.done && s.doneie) || (s.fault && s.faultie))) ∧
  State.reset.doneie = false ∧ State.reset.faultie = false

/-- 10_state R129: every bit of STATUS, and a STATUS write clears DONE if bit 1 is 1 and does nothing else, in every state;
bits 23:16 are the code 60_exceptions R606 gives the recorded fault, each of the nine named. -/
def Obligations.StatusBitsAndDoneClear : Prop :=
  (∀ p ∈ [(FaultCode.noFault, 0x00#8), (.illegal, 0x01#8), (.nomod, 0x02#8), (.even, 0x03#8), (.size, 0x04#8),
      (.explen, 0x05#8), (.busy, 0x10#8), (.badlen, 0x11#8), (.align, 0x12#8)],
    ∀ s : State, s.faultCode = p.1 → s.statusWord.extractLsb' 16 8 = p.2) ∧
  ∀ (s : State) (v : Word),
    s.statusWord.getLsbD 0 = s.busy ∧ s.statusWord.getLsbD 1 = s.done ∧ s.statusWord.getLsbD 2 = s.fault ∧
    s.statusWord.getLsbD 3 = s.okf ∧ s.statusWord.getLsbD 4 = s.carry ∧ s.statusWord.extractLsb' 5 3 = 0 ∧
    (∀ c : ChoiceIx, s.statusWord.getLsbD (8 + c) = (s.C c).getLsbD 0) ∧ s.statusWord.extractLsb' 12 4 = 0 ∧
    s.statusWord.extractLsb' 16 8 = s.faultCode.code ∧ s.statusWord.extractLsb' 24 40 = 0 ∧
    s.hostWrite (addrOf .status) v = (if v.getLsbD 1 then { s with done := false } else s) ∧
    (s.busy = false → s.hostRead (addrOf .status) = { s with rdata := s.statusWord })

/-- 10_state R130: every CMD write, issued or not, leaves its word in LASTCMD, which a CMD read returns in every state;
LASTCMD is 0 after reset; a legal word the checks accept is issued. -/
def Obligations.CmdReadsTheLastWrite : Prop :=
  (∀ (s : State) (v : Word), (s.hostWrite (addrOf .cmd) v).lastCmd = v ∧
    s.hostRead (addrOf .cmd) = { s with rdata := s.lastCmd } ∧
    (s.fault = false → s.busy = false → s.checkWord v = .noFault →
      (s.hostWrite (addrOf .cmd) v).busy = true ∧ (s.hostWrite (addrOf .cmd) v).pend = v.extractLsb' 0 32)) ∧
  State.reset.lastCmd = 0

/-- 10_state R131: the ID constant, its fields, and that every state reads it. -/
def Obligations.IdIdentifiesTheBlock : Prop :=
  idWord = 0x7F404001 ∧ idWord.extractLsb' 0 8 = 0x01 ∧ idWord.extractLsb' 8 8 = 0x40 ∧ idWord.extractLsb' 16 8 = 0x40 ∧
  idWord.extractLsb' 24 4 = 15 ∧ idWord.extractLsb' 28 1 = 1 ∧ idWord.extractLsb' 29 2 = 3 ∧ idWord.extractLsb' 31 33 = 0 ∧
  ∀ s : State, s.hostRead (addrOf .id) = { s with rdata := idWord }

/-- 10_state R139: the interrupt line is that function of the state, and 0 after reset. -/
def Obligations.IrqIsALevel : Prop :=
  (∀ s : State, s.irq = true ↔ (s.done = true ∧ s.doneie = true) ∨ (s.fault = true ∧ s.faultie = true)) ∧
  State.reset.irq = false

/-! ## Reset -/

/-- 10_state R107, 70_reset_and_hazards R701, R703: every piece of state is 0 after reset, ID is its constant and `irq` is
0, and every Nat register has the value 0. (`rstIn`,
`events`, `rdata` and `draws` are the model's own, log 1, 3, 5 and 6, and are not claimed here.) -/
def Obligations.ResetValues : Prop :=
  State.reset.BlockIsReset ∧ ∀ r, (State.reset.N r).val = 0

/-- 70_reset_and_hazards R701, R702: a step while `rst` is high (its release among them), on its rise, or on an aligned
CTRL write with SRST = 1 leaves every piece of the block's state at its reset value, in every state: a pending command is
gone, a fault record and the written enables too. Of the environment it takes the one move off the list. -/
def Obligations.ResetStepRestoresEveryValue : Prop :=
  ∀ s : State, s.resetsNext = true →
    ∃ t, step s = .next t ∧ t.BlockIsReset ∧ t.events = s.events.tail ∧ t.draws = s.draws

/-! ## The commands -/

/-- 41_nat_and_modulus R403: a value ≥ 2 fills the slot with the modulus, trimmed, and its constants, and sets OKF. -/
def Obligations.ModloadLoadsTheModulus : Prop :=
  ∀ (s : State) (k : SlotIx) (a : NatIx), 2 ≤ (s.N a).val →
    ∃ t, exec (.modload k a) s = .next t ∧ (t.M k).Holds (s.N a).val ∧ (∀ j, j ≠ k → t.M j = s.M j) ∧
      t = { s with slots := t.slots, okf := true, busy := false, done := true }

/-- 41_nat_and_modulus R403: a value ≤ 1 empties the slot and clears OKF. -/
def Obligations.ModloadRejectsZeroAndOne : Prop :=
  ∀ (s : State) (k : SlotIx) (a : NatIx), (s.N a).val ≤ 1 →
    ∃ t, exec (.modload k a) s = .next t ∧ t.M k = Slot.empty ∧ (∀ j, j ≠ k → t.M j = s.M j) ∧
      t = { s with slots := t.slots, okf := false, busy := false, done := true }

/-- 41_nat_and_modulus R404, R405: EXPAND keeps the value at the modulus length, MOV copies value and length; both zero
the words above. -/
def Obligations.ExpandAndMovKeepTheValue : Prop :=
  (∀ (s : State) (d : NatIx) (k : SlotIx), (s.M k).valid = true → (s.N d).len ≤ (s.M k).len →
    ∃ t, exec (.expand d k) s = .next t ∧ WritesNat s t d (s.N d).val (s.M k).len ∧
      t = { s with nats := t.nats, busy := false, done := true }) ∧
  (∀ (s : State) (d a : NatIx),
    ∃ t, exec (.mov d a) s = .next t ∧ WritesNat s t d (s.N a).val (s.N a).len ∧
      t = { s with nats := t.nats, busy := false, done := true })

/-- 42_word_adder R421: the sum modulo 2^(W*n), and CARRY the bit above. -/
def Obligations.AddcAddsWithCarryOut : Prop :=
  ∀ (s : State) (d a b : NatIx), (s.N a).len = (s.N b).len →
    ∃ t, exec (.addc d a b) s = .next t ∧
      WritesNat s t d (((s.N a).val + (s.N b).val) % 2 ^ (W * (s.N a).len)) (s.N a).len ∧
      t = { s with nats := t.nats, carry := decide (2 ^ (W * (s.N a).len.val) ≤ (s.N a).val + (s.N b).val),
                   busy := false, done := true }

/-- 42_word_adder R422: the difference modulo 2^(W*n), and CARRY the borrow. -/
def Obligations.SubbSubtractsWithBorrowOut : Prop :=
  ∀ (s : State) (d a b : NatIx), (s.N a).len = (s.N b).len →
    ∃ t, exec (.subb d a b) s = .next t ∧
      WritesNat s t d (((s.N a).val + 2 ^ (W * (s.N a).len.val) - (s.N b).val) % 2 ^ (W * (s.N a).len)) (s.N a).len ∧
      t = { s with nats := t.nats, carry := decide ((s.N a).val < (s.N b).val), busy := false, done := true }

/-- 42_word_adder R423, R425: on reduced operands, the sum modulo m, for a modulus of either parity; no flag changes. -/
def Obligations.ModaddIsAdditionModM : Prop :=
  ∀ (s : State) (d a b : NatIx) (k : SlotIx), (s.M k).valid = true → (s.N a).len = (s.M k).len →
    (s.N b).len = (s.M k).len → (s.N a).val < (s.M k).mval → (s.N b).val < (s.M k).mval →
    ∃ t, exec (.modadd d a b k) s = .next t ∧
      WritesNat s t d (((s.N a).val + (s.N b).val) % (s.M k).mval) (s.M k).len ∧
      t = { s with nats := t.nats, busy := false, done := true }

/-- 42_word_adder R424, R425: on reduced operands, the difference modulo m, in [0, m); no flag changes. -/
def Obligations.ModsubIsSubtractionModM : Prop :=
  ∀ (s : State) (d a b : NatIx) (k : SlotIx), (s.M k).valid = true → (s.N a).len = (s.M k).len →
    (s.N b).len = (s.M k).len → (s.N a).val < (s.M k).mval → (s.N b).val < (s.M k).mval →
    ∃ t, exec (.modsub d a b k) s = .next t ∧
      WritesNat s t d (((s.N a).val + (s.M k).mval - (s.N b).val) % (s.M k).mval) (s.M k).len ∧
      t = { s with nats := t.nats, busy := false, done := true }

/-- 43_montgomery R442: for a slot with an odd modulus and reduced A and B, the word loop's product is `A*B*Rinv mod m`,
with `Rinv = inv(R mod m, m)` (R441). -/
def Obligations.MontgomeryLoopComputesTheProduct : Prop :=
  ∀ (m : Slot) (A B : Nat), m.Wf → m.valid = true → m.odd = true → A < m.mval → B < m.mval →
    m.mm A B = A * B * inv (m.radix % m.mval) m.mval % m.mval ∧
    m.mm A B * m.radix % m.mval = A * B % m.mval

/-- 43_montgomery R443: MONTMUL writes the Montgomery product of its reduced operands. -/
def Obligations.MontmulWritesTheProduct : Prop :=
  ∀ (s : State) (d a b : NatIx) (k : SlotIx), (s.M k).Wf → (s.M k).valid = true → (s.M k).odd = true →
    (s.N a).len = (s.M k).len → (s.N b).len = (s.M k).len →
    (s.N a).val < (s.M k).mval → (s.N b).val < (s.M k).mval →
    ∃ t, exec (.montmul d a b k) s = .next t ∧
      WritesNat s t d ((s.N a).val * (s.N b).val * inv ((s.M k).radix % (s.M k).mval) (s.M k).mval % (s.M k).mval)
        (s.M k).len ∧
      t = { s with nats := t.nats, busy := false, done := true }

/-- 43_montgomery R444, R445, R447: TOMONT gives `x*R mod m`, FROMMONT gives `x*Rinv mod m`, and FROMMONT undoes TOMONT. -/
def Obligations.TomontAndFrommontConvert : Prop :=
  ∀ (s : State) (d a : NatIx) (k : SlotIx), (s.M k).Wf → (s.M k).valid = true → (s.M k).odd = true →
    (s.N a).len = (s.M k).len → (s.N a).val < (s.M k).mval →
    (∃ t, exec (.tomont d a k) s = .next t ∧
      WritesNat s t d ((s.N a).val * (s.M k).radix % (s.M k).mval) (s.M k).len ∧
      t = { s with nats := t.nats, busy := false, done := true } ∧
      ∃ u, exec (.frommont d d k) t = .next u ∧ (u.N d).val = (s.N a).val) ∧
    (∃ t, exec (.frommont d a k) s = .next t ∧
      WritesNat s t d ((s.N a).val * inv ((s.M k).radix % (s.M k).mval) (s.M k).mval % (s.M k).mval) (s.M k).len ∧
      t = { s with nats := t.nats, busy := false, done := true })

/-- 43_montgomery R446, R447: on reduced operands, the product modulo m. -/
def Obligations.ModmulIsMultiplicationModM : Prop :=
  ∀ (s : State) (d a b : NatIx) (k : SlotIx), (s.M k).Wf → (s.M k).valid = true → (s.M k).odd = true →
    (s.N a).len = (s.M k).len → (s.N b).len = (s.M k).len →
    (s.N a).val < (s.M k).mval → (s.N b).val < (s.M k).mval →
    ∃ t, exec (.modmul d a b k) s = .next t ∧
      WritesNat s t d ((s.N a).val * (s.N b).val % (s.M k).mval) (s.M k).len ∧
      t = { s with nats := t.nats, busy := false, done := true }

/-- 44_exponentiation R461 to R463, R466: on a reduced base, the power modulo m, of the exponent in the low ELEN bytes of
N[B] (exponent 0 gives 1). -/
def Obligations.ModexpIsPowerModM : Prop :=
  ∀ (s : State) (d a b : NatIx) (k : SlotIx), (s.M k).Wf → (s.M k).valid = true → (s.M k).odd = true →
    (s.N a).len = (s.M k).len → 8 * s.elen.toNat ≤ W * (s.N b).len → (s.N a).val < (s.M k).mval →
    ∃ t, exec (.modexp d a b k) s = .next t ∧
      WritesNat s t d ((s.N a).val ^ ((s.N b).val % 2 ^ (8 * s.elen.toNat)) % (s.M k).mval) (s.M k).len ∧
      t = { s with nats := t.nats, busy := false, done := true }

/-- 44_exponentiation R464, R466: on a reduced base, the power modulo m of the exponent ESHORT (exponent 0 gives 1). -/
def Obligations.ModexpsIsPowerModM : Prop :=
  ∀ (s : State) (d a : NatIx) (k : SlotIx), (s.M k).Wf → (s.M k).valid = true → (s.M k).odd = true →
    (s.N a).len = (s.M k).len → (s.N a).val < (s.M k).mval →
    ∃ t, exec (.modexps d a k) s = .next t ∧
      WritesNat s t d ((s.N a).val ^ s.eshort.toNat % (s.M k).mval) (s.M k).len ∧
      t = { s with nats := t.nats, busy := false, done := true }

/-- 45_select_compare R483: N[A] when the choice is ONES, N[B] when it is 0; 10_state R121 knows no other choice. -/
def Obligations.SelectTakesOneOperand : Prop :=
  ∀ (s : State) (d : NatIx) (k : ChoiceIx) (a b : NatIx), (s.N a).len = (s.N b).len → s.C k = 0 ∨ s.C k = ones →
    ∃ t, exec (.select d k a b) s = .next t ∧
      WritesNat s t d (if s.C k = ones then (s.N a).val else (s.N b).val) (s.N a).len ∧
      t = { s with nats := t.nats, busy := false, done := true }

/-- 45_select_compare R484: EQUAL compares the values of two operands of one length, and writes only C[K]. -/
def Obligations.EqualComparesValues : Prop :=
  ∀ (s : State) (k : ChoiceIx) (a b : NatIx), (s.N a).len = (s.N b).len →
    ∃ t, exec (.equal k a b) s = .next t ∧ WritesChoice s t k ((s.N a).val = (s.N b).val) ∧
      t = { s with choices := t.choices, busy := false, done := true }

/-- 45_select_compare R485, R486, R488, R487: the predicates of one operand, any length; ISMINUSONE against a modulus of
either parity at its length. Each writes only C[K]. -/
def Obligations.PredicatesWriteTheirChoice : Prop :=
  (∀ (s : State) (k : ChoiceIx) (a : NatIx),
    (∃ t, exec (.iszero k a) s = .next t ∧ WritesChoice s t k ((s.N a).val = 0) ∧
      t = { s with choices := t.choices, busy := false, done := true }) ∧
    (∃ t, exec (.isone k a) s = .next t ∧ WritesChoice s t k ((s.N a).val = 1) ∧
      t = { s with choices := t.choices, busy := false, done := true }) ∧
    (∃ t, exec (.isodd k a) s = .next t ∧ WritesChoice s t k ((s.N a).val % 2 = 1) ∧
      t = { s with choices := t.choices, busy := false, done := true })) ∧
  (∀ (s : State) (k : ChoiceIx) (a : NatIx) (m : SlotIx), (s.M m).Wf → (s.M m).valid = true →
    (s.N a).len = (s.M m).len →
    ∃ t, exec (.isminusone k a m) s = .next t ∧ WritesChoice s t k ((s.N a).val = (s.M m).mval - 1) ∧
      t = { s with choices := t.choices, busy := false, done := true })

/-- 45_select_compare R489, R490: CAND and COR write the bitwise and, or of two choices; of choices that are 0 or ONES,
the logical ones. -/
def Obligations.ChoiceCombinators : Prop :=
  ∀ (s : State) (k ka kb : ChoiceIx),
    (∃ t, exec (.cand k ka kb) s = .next t ∧ t.C k = s.C ka &&& s.C kb ∧ (∀ c, c ≠ k → t.C c = s.C c) ∧
      t = { s with choices := t.choices, busy := false, done := true } ∧
      ((s.C ka = 0 ∨ s.C ka = ones) → (s.C kb = 0 ∨ s.C kb = ones) →
        t.C k = if s.C ka = ones ∧ s.C kb = ones then ones else 0)) ∧
    (∃ t, exec (.cor k ka kb) s = .next t ∧ t.C k = s.C ka ||| s.C kb ∧ (∀ c, c ≠ k → t.C c = s.C c) ∧
      t = { s with choices := t.choices, busy := false, done := true } ∧
      ((s.C ka = 0 ∨ s.C ka = ones) → (s.C kb = 0 ∨ s.C kb = ones) →
        t.C k = if s.C ka = ones ∨ s.C kb = ones then ones else 0))

/-- 46_vartime R513, R515: a reduced source coprime to the modulus, of either parity, gives the one inverse in [0, m) and
OKF = 1; any other reduced source gives OKF = 0 and changes no register. -/
def Obligations.ModinvInvertsUnits : Prop :=
  ∀ (s : State) (d a : NatIx) (k : SlotIx), (s.M k).Wf → (s.M k).valid = true → (s.N a).len = (s.M k).len →
    (s.N a).val < (s.M k).mval →
    (Nat.gcd (s.N a).val (s.M k).mval = 1 → ∃ t y, exec (.modinv d a k) s = .next t ∧ y < (s.M k).mval ∧
      (s.N a).val * y % (s.M k).mval = 1 ∧ WritesNat s t d y (s.M k).len ∧
      t = { s with nats := t.nats, okf := true, busy := false, done := true }) ∧
    (Nat.gcd (s.N a).val (s.M k).mval ≠ 1 →
      exec (.modinv d a k) s = .next { s with okf := false, busy := false, done := true })

/-- 46_vartime R514, R515: two non-zero values, one of them odd, give their greatest common divisor at the length of
N[B] and OKF = 1; any other pair gives OKF = 0 and changes no register. -/
def Obligations.GcdOfUsableInputs : Prop :=
  ∀ (s : State) (d a b : NatIx),
    ((s.N a).val ≠ 0 → (s.N b).val ≠ 0 → ((s.N a).val % 2 = 1 ∨ (s.N b).val % 2 = 1) →
      ∃ t, exec (.gcd d a b) s = .next t ∧ WritesNat s t d (Nat.gcd (s.N a).val (s.N b).val) (s.N b).len ∧
        t = { s with nats := t.nats, okf := true, busy := false, done := true }) ∧
    (((s.N a).val = 0 ∨ (s.N b).val = 0 ∨ ((s.N a).val % 2 = 0 ∧ (s.N b).val % 2 = 0)) →
      exec (.gcd d a b) s = .next { s with okf := false, busy := false, done := true })

/-- 41_nat_and_modulus R402: an unreduced operand is no fault; the destination receives a draw of the modulus length,
for MODINV OKF receives one too, and every other effect is as ever. No draw's value is claimed. -/
def Obligations.UnreducedOperandsGiveDraws : Prop :=
  ∀ (s : State) (d a b : NatIx) (k : SlotIx),
    (∀ i ∈ [Instr.modadd d a b k, .modsub d a b k, .montmul d a b k, .modmul d a b k],
      check i s = .noFault → ((s.M k).mval ≤ (s.N a).val ∨ (s.M k).mval ≤ (s.N b).val) →
      ∃ t, exec i s = .next t ∧ WritesNat s t d (freeBits (W * (s.M k).len) s.draws).toNat (s.M k).len ∧
        t = { s with nats := t.nats, draws := s.draws + 1, busy := false, done := true }) ∧
    (∀ i ∈ [Instr.tomont d a k, .frommont d a k, .modexp d a b k, .modexps d a k],
      check i s = .noFault → (s.M k).mval ≤ (s.N a).val →
      ∃ t, exec i s = .next t ∧ WritesNat s t d (freeBits (W * (s.M k).len) s.draws).toNat (s.M k).len ∧
        t = { s with nats := t.nats, draws := s.draws + 1, busy := false, done := true }) ∧
    (check (.modinv d a k) s = .noFault → (s.M k).mval ≤ (s.N a).val →
      ∃ t, exec (.modinv d a k) s = .next t ∧ WritesNat s t d (freeBits (W * (s.M k).len) s.draws).toNat (s.M k).len ∧
        t = { s with nats := t.nats, okf := freeBits 1 (s.draws + 1) == 1, draws := s.draws + 2, busy := false, done := true })

/-! ## Frames and whole-machine rules -/

/-- The frame of every command (10_state R104, R118, R121 to R123; 60_exceptions R604, R611): whatever it answers, only
its Nat destination, its choice, its slot, CARRY for ADDC and SUBB, OKF for MODLOAD, MODINV and GCD, BUSY, DONE, the
draw counter (log 3) and, when a check rejects it, the fault record can differ. That `exec` repeats the checks, so what a
rejected command leaves here and BUSY = 0 after it, is the model's choice, log 11: the spec checks at issue only. -/
def Obligations.CommandFrame : Prop :=
  ∀ (i : Instr) (s t : State), exec i s = .next t →
    (∀ r, natDest i ≠ some r → t.N r = s.N r) ∧ (∀ k, slotDest i ≠ some k → t.M k = s.M k) ∧
    (∀ c, choiceDest i ≠ some c → t.C c = s.C c) ∧ (writesCarry i = false → t.carry = s.carry) ∧
    (writesOkf i = false → t.okf = s.okf) ∧ t.doneie = s.doneie ∧ t.faultie = s.faultie ∧ t.lastCmd = s.lastCmd ∧
    t.elen = s.elen ∧ t.eshort = s.eshort ∧ t.pend = s.pend ∧ t.rstIn = s.rstIn ∧ t.events = s.events ∧
    t.rdata = s.rdata ∧ t.busy = false ∧
    (check i s = .noFault → t.done = true ∧ t.fault = s.fault ∧ t.faultCode = s.faultCode ∧
      t.faultAddr = s.faultAddr ∧ t.faultData = s.faultData) ∧
    (check i s ≠ .noFault → t.nats = s.nats ∧ t.slots = s.slots ∧ t.choices = s.choices ∧ t.carry = s.carry ∧
      t.okf = s.okf ∧ t.done = s.done ∧ t.draws = s.draws)

/-- The frame of a completed command over the whole address space (20_memory R202): at every address, the word the port
holds is unchanged unless it belongs to the command's destinations or is STATUS. -/
def Obligations.CommandPortFrame : Prop :=
  ∀ (i : Instr) (s t : State) (addr : Addr), exec i s = .next t → check i s = .noFault →
    mayChange i (portTarget addr) = false → t.peek (portTarget addr) = s.peek (portTarget addr)

/-- 10_state R122: CARRY is the carry out of ADDC or the borrow out of SUBB; no other command writes it; it is STATUS bit
4; no command reads it; it is 0 after reset. -/
def Obligations.CarryIsWrittenByTheAdderAlone : Prop :=
  (∀ (s t : State) (d a b : NatIx), (s.N a).len = (s.N b).len →
    (exec (.addc d a b) s = .next t →
      t.carry = decide (2 ^ (W * (s.N a).len.val) ≤ (s.N a).val + (s.N b).val)) ∧
    (exec (.subb d a b) s = .next t → t.carry = decide ((s.N a).val < (s.N b).val))) ∧
  (∀ (i : Instr) (s t : State), exec i s = .next t → writesCarry i = false → t.carry = s.carry) ∧
  (∀ (i : Instr) (s t : State) (c : Bool), exec i s = .next t →
    exec i { s with carry := c } =
      .next { t with carry := if writesCarry i = true ∧ check i s = .noFault then t.carry else c }) ∧
  (∀ s : State, s.statusWord.getLsbD 4 = s.carry) ∧ State.reset.carry = false

/-- 10_state R123: OKF is written by MODLOAD (1 when the value is at least 2), MODINV (of a reduced source: 1 when it is
invertible) and GCD (0 when both values are even or one is 0); no other command writes it; it is STATUS bit 3; no command
reads it; it is 0 after reset. -/
def Obligations.OkfIsWrittenByThreeCommands : Prop :=
  (∀ (s t : State) (d a b : NatIx) (k : SlotIx),
    (exec (.modload k a) s = .next t → t.okf = decide (2 ≤ (s.N a).val)) ∧
    (exec (.modinv d a k) s = .next t → check (.modinv d a k) s = .noFault → (s.N a).val < (s.M k).mval →
      t.okf = decide (Nat.gcd (s.N a).val (s.M k).mval = 1)) ∧
    (exec (.gcd d a b) s = .next t → (t.okf = false ↔
      ((s.N a).val % 2 = 0 ∧ (s.N b).val % 2 = 0) ∨ (s.N a).val = 0 ∨ (s.N b).val = 0))) ∧
  (∀ (i : Instr) (s t : State), exec i s = .next t → writesOkf i = false → t.okf = s.okf) ∧
  (∀ (i : Instr) (s t : State) (b : Bool), exec i s = .next t →
    exec i { s with okf := b } =
      .next { t with okf := if writesOkf i = true ∧ check i s = .noFault then t.okf else b }) ∧
  (∀ s : State, s.statusWord.getLsbD 3 = s.okf) ∧ State.reset.okf = false

/-- 10_state R121, 45_select_compare R481: choices stay 0 or ONES through every step, and a choice changes only by a
reset or by the command whose destination it is. -/
def Obligations.ChoicesStayZeroOrOnes : Prop :=
  (∀ s t : State, (∀ c, s.C c = 0 ∨ s.C c = ones) → step s = .next t → ∀ c, t.C c = 0 ∨ t.C c = ones) ∧
  (∀ (s t : State) (c : ChoiceIx), step s = .next t → t.C c ≠ s.C c →
    s.resetsNext = true ∨ (s.engineNext = true ∧ ∃ i, decodeCommand s.pend = .ok i ∧ choiceDest i = some c))

/-- 10_state R118: a step changes a slot only by a reset or by executing a MODLOAD of that slot. -/
def Obligations.SlotsChangeOnlyByModload : Prop :=
  ∀ (s t : State) (k : SlotIx), step s = .next t → t.M k ≠ s.M k →
    s.resetsNext = true ∨ (s.engineNext = true ∧ ∃ a, decodeCommand s.pend = .ok (.modload k a))

/-- The invariant holds at reset. -/
def Obligations.InvariantHoldsAtReset : Prop := State.reset.Inv

/-- Every step, from every state that meets it, keeps the invariant: slots hold a modulus with its constants or are
empty, choices are 0 or ONES, ELEN is legal, the fault record is consistent, a pending command is checked and not done,
and the block is reset while `rst` is high (10_state R112 to R121, R127; 60_exceptions R601, R603; 70 R701). -/
def Obligations.EveryStepKeepsTheInvariant : Prop := ∀ s t : State, s.Inv → step s = .next t → t.Inv

/-- 60_exceptions R601, R611, R612: from a state that meets the invariant no step stops, and the engine's step of a
pending command raises no fault, clears BUSY and sets DONE. -/
def Obligations.IssuedCommandsComplete : Prop :=
  ∀ s : State, s.Inv →
    (∃ t, step s = .next t) ∧
    (s.busy = true → ∃ t, engineStep s = .next t ∧ t.busy = false ∧ t.done = true ∧ t.fault = s.fault ∧
      t.faultCode = s.faultCode ∧ t.faultAddr = s.faultAddr ∧ t.faultData = s.faultData)

/-- 60_exceptions R602, 00_scope R25, R402: what is public after a step depends only on what was public before, except
in a step that executes MODLOAD, MODINV or GCD (which make values public, or write OKF): two states that differ in secrets only step to two that do. -/
def Obligations.PublicStateIgnoresSecrets : Prop :=
  ∀ s t s' t' : State, PublicEq s t →
    (s.engineNext = true → ∀ i, decodeCommand s.pend = .ok i → writesOkf i = false) →
    step s = .next s' → step t = .next t' → PublicEq s' t'

/-- 70_reset_and_hazards R731, row by row: a command's cycle count is the same in two states, and for any two choices of
its registers, that agree on the numbers of its row: for MODLOAD the length of its operand and the resulting length and
bit length of the slot, for MODEXP the modulus length and ELEN, and so on; CAND and COR depend on nothing; MODINV and GCD
have no bound. That the old length of the destination is not among the numbers of the rows of SELECT and MOV is the
model's choice, log 7. So, but for these two, it is the same where all that is public agrees. It is at least 1. -/
def Obligations.CyclesDependOnPublicSizes : Prop :=
  (∀ (i : Instr) (s : State), 1 ≤ cycles i s) ∧
  (∀ (s t : State) (d a b d' a' b' : NatIx) (k k' : SlotIx) (c ka kb c' ka' kb' : ChoiceIx),
    ((s.N a).len = (t.N a').len → ∀ u v, exec (.modload k a) s = .next u → exec (.modload k' a') t = .next v →
      (u.M k).len = (v.M k').len → (u.M k).bits = (v.M k').bits →
      cycles (.modload k a) s = cycles (.modload k' a') t) ∧
    ((s.N d).len = (t.N d').len → (s.M k).len = (t.M k').len → cycles (.expand d k) s = cycles (.expand d' k') t) ∧
    ((s.N a).len = (t.N a').len →
      ∀ p ∈ [(Instr.mov d a, Instr.mov d' a'), (.iszero c a, .iszero c' a'), (.isone c a, .isone c' a'),
        (.isodd c a, .isodd c' a')], cycles p.1 s = cycles p.2 t) ∧
    ((s.N a).len = (t.N a').len → (s.N b).len = (t.N b').len →
      ∀ p ∈ [(Instr.addc d a b, Instr.addc d' a' b'), (.subb d a b, .subb d' a' b'),
        (.select d c a b, .select d' c' a' b'), (.equal c a b, .equal c' a' b')], cycles p.1 s = cycles p.2 t) ∧
    ((s.M k).len = (t.M k').len →
      ∀ p ∈ [(Instr.modadd d a b k, Instr.modadd d' a' b' k'), (.modsub d a b k, .modsub d' a' b' k'),
        (.montmul d a b k, .montmul d' a' b' k'), (.tomont d a k, .tomont d' a' k'),
        (.frommont d a k, .frommont d' a' k'), (.modmul d a b k, .modmul d' a' b' k'),
        (.isminusone c a k, .isminusone c' a' k')], cycles p.1 s = cycles p.2 t) ∧
    ((s.M k).len = (t.M k').len → s.elen = t.elen → cycles (.modexp d a b k) s = cycles (.modexp d' a' b' k') t) ∧
    ((s.M k).len = (t.M k').len → s.eshort = t.eshort → cycles (.modexps d a k) s = cycles (.modexps d' a' k') t) ∧
    cycles (.cand c ka kb) s = cycles (.cand c' ka' kb') t ∧ cycles (.cor c ka kb) s = cycles (.cor c' ka' kb') t) ∧
  (∀ (i : Instr) (s t : State), PublicEq s t →
    (∀ k a, i = .modload k a → bitlen (s.N a).val = bitlen (t.N a).val) →
    (∀ d a k, i ≠ .modinv d a k) → (∀ d a b, i ≠ .gcd d a b) → cycles i s = cycles i t)

/-- 20_memory R205: byte `b[j]` of a buffer of L bytes lands in word `(L-1-j) div WB` at the bits from
`8*((L-1-j) mod WB)` up, and the reverse conversion gives the buffer back. -/
def Obligations.BufferBytesLandInTheirWords : Prop :=
  ∀ b : List (BitVec 8),
    (∀ (j : Nat) (h : j < b.length),
      (wordAt (bufferValue b) ((b.length - 1 - j) / WB)).extractLsb' (8 * ((b.length - 1 - j) % WB)) 8 = b[j]) ∧
    bytesOf b.length (bufferValue b) = b
end

