-- ==== Sys2Proof/Laws/Arith.lean ====
section
/-! SUPPORT. What the arithmetic functions compute: one spec lemma per function of Machine/Arith.lean. -/

namespace Sys2Proof.Machine

open Sys2Proof.Config

/-! Bit lengths. -/

theorem lt_two_pow_bitlen (v : Nat) : v < 2 ^ bitlen v := by
  unfold bitlen
  split
  · subst v; decide
  · exact Nat.lt_log2_self

theorem bitlen_le_of_lt {v n : Nat} (h : v < 2 ^ n) : bitlen v ≤ n := by
  unfold bitlen
  split
  · exact Nat.zero_le n
  · rename_i h0
    exact (Nat.log2_lt h0).mpr h

theorem two_pow_le_of_bitlen {v : Nat} (h : v ≠ 0) : 2 ^ (bitlen v - 1) ≤ v := by
  simp only [bitlen, h, ↓reduceIte, Nat.add_sub_cancel]
  exact Nat.log2_self_le h

/-! Word sequences and their values. -/

theorem wordsVal_lt (ws : List Word) : wordsVal ws < 2 ^ (W * ws.length) := by
  induction ws with
  | nil => simp [wordsVal]
  | cons w ws ih =>
    have hw : w.toNat < 2 ^ 64 := w.isLt
    have e : (2 : Nat) ^ (W * (w :: ws).length) = 2 ^ 64 * 2 ^ (W * ws.length) := by
      rw [← Nat.pow_add]; congr 1; simp only [List.length_cons, W]; omega
    rw [e]
    simp only [wordsVal, W]
    calc w.toNat + 2 ^ 64 * wordsVal ws < 2 ^ 64 + 2 ^ 64 * wordsVal ws := by omega
      _ = 2 ^ 64 * (wordsVal ws + 1) := by ring
      _ ≤ 2 ^ 64 * 2 ^ (W * ws.length) := Nat.mul_le_mul_left _ ih

/-- Two word sequences of one length with one value are the same sequence. -/
theorem wordsVal_inj : ∀ {as bs : List Word}, as.length = bs.length → wordsVal as = wordsVal bs → as = bs
  | [], [], _, _ => rfl
  | a :: as, b :: bs, hl, hv => by
    have ha : a.toNat < 2 ^ 64 := a.isLt
    have hb : b.toNat < 2 ^ 64 := b.isLt
    simp only [wordsVal, W] at hv
    have h1 : a = b := BitVec.eq_of_toNat_eq (by omega)
    have h2 : as = bs := wordsVal_inj (by simpa using hl) (by omega)
    rw [h1, h2]

/-- A sequence whose words are those of `v` has the value of `v` below its length. -/
theorem wordsVal_of_wordAt : ∀ (ws : List Word) (v : Nat), (∀ i (h : i < ws.length), ws[i] = wordAt v i) →
    wordsVal ws = v % 2 ^ (W * ws.length)
  | [], v, _ => by simp [wordsVal, Nat.mod_one]
  | w :: ws, v, h => by
    have h0 : w = wordAt v 0 := h 0 (by simp)
    have ht : wordsVal ws = (v >>> 64) % 2 ^ (W * ws.length) := by
      refine wordsVal_of_wordAt ws (v >>> 64) fun i hi => ?_
      have := h (i + 1) (by simpa using hi)
      simp only [List.getElem_cons_succ] at this
      rw [this, wordAt, wordAt, ← Nat.shiftRight_add]
      congr 2; simp only [W]; ring
    have e : (2 : Nat) ^ (W * (w :: ws).length) = 2 ^ 64 * 2 ^ (W * ws.length) := by
      rw [← Nat.pow_add]; congr 1; simp only [List.length_cons, W]; omega
    rw [e, Nat.mod_mul, wordsVal, ht, h0, Nat.shiftRight_eq_div_pow]
    simp only [wordAt, W, Nat.mul_zero, Nat.shiftRight_zero, BitVec.toNat_ofNat]

@[simp] theorem getElem_wordsOf (v n i : Nat) (h : i < NMAX) : (wordsOf v n)[i] = if i < n then wordAt v i else 0 := by
  simp [wordsOf]

theorem length_take_words (w : Words) (n : Len) : (w.toList.take n).length = n := by
  have := n.isLt
  simp only [List.length_take, Vector.length_toList]
  omega

theorem wordsVal_take_wordsOf (v : Nat) (n : Len) : wordsVal ((wordsOf v n).toList.take n) = v % 2 ^ (W * n) := by
  have hl := length_take_words (wordsOf v n) n
  have h := wordsVal_of_wordAt ((wordsOf v n).toList.take n) v (fun i hi => by
    rw [hl] at hi
    rw [List.getElem_take, Vector.getElem_toList, getElem_wordsOf, if_pos hi])
  rwa [hl] at h

@[simp] theorem NatReg.length_words (x : NatReg) : x.words.length = x.len := length_take_words x.w x.len

@[simp] theorem Slot.length_words (m : Slot) : m.words.length = m.len := length_take_words m.w m.len

theorem NatReg.val_lt (x : NatReg) : x.val < 2 ^ (W * x.len) := by
  have h := wordsVal_lt x.words
  rwa [NatReg.length_words] at h

theorem Slot.mval_lt (m : Slot) : m.mval < m.radix := by
  have h := wordsVal_lt m.words
  rwa [Slot.length_words] at h

theorem Slot.rrval_lt (m : Slot) : m.rrval < m.radix := by
  have h := wordsVal_lt (m.rr.toList.take m.len)
  rwa [length_take_words] at h

/-! The ripple adder and subtracter. -/

theorem addWords_spec : ∀ (as bs : List Word) (c : Bool), as.length = bs.length →
    (addWords as bs c).1.length = as.length ∧
    wordsVal (addWords as bs c).1 + 2 ^ (W * as.length) * (addWords as bs c).2.toNat =
      wordsVal as + wordsVal bs + c.toNat
  | [], [], c, _ => by simp [addWords, wordsVal]
  | a :: as, b :: bs, c, h => by
    have ha : a.toNat < 2 ^ 64 := a.isLt
    have hb : b.toNat < 2 ^ 64 := b.isLt
    obtain ⟨hl, hv⟩ := addWords_spec as bs (decide (2 ^ W ≤ a.toNat + b.toNat + c.toNat)) (by simpa using h)
    refine ⟨by simp [addWords, hl], ?_⟩
    have e : (2 : Nat) ^ (W * (a :: as).length) = 2 ^ 64 * 2 ^ (W * as.length) := by
      rw [← Nat.pow_add]; congr 1; simp only [List.length_cons, W]; omega
    have hc1 : c.toNat ≤ 1 := Bool.toNat_le c
    have hd : (decide (2 ^ W ≤ a.toNat + b.toNat + c.toNat)).toNat = (a.toNat + b.toNat + c.toNat) / 2 ^ 64 := by
      by_cases hc : 2 ^ W ≤ a.toNat + b.toNat + c.toNat <;> simp only [hc, decide_true, decide_false, Bool.toNat_true,
        Bool.toNat_false] <;> simp only [W] at hc <;> omega
    simp only [addWords, wordsVal, BitVec.toNat_ofNat]
    rw [e, Nat.mul_assoc]
    rw [hd] at hv
    have hm := Nat.mod_add_div (a.toNat + b.toNat + c.toNat) (2 ^ 64)
    calc _ = (a.toNat + b.toNat + c.toNat) % 2 ^ 64 + 2 ^ 64 * (wordsVal (addWords as bs _).1 +
          2 ^ (W * as.length) * (addWords as bs _).2.toNat) := by ring
      _ = (a.toNat + b.toNat + c.toNat) % 2 ^ 64 + 2 ^ 64 * ((a.toNat + b.toNat + c.toNat) / 2 ^ 64) +
          2 ^ 64 * (wordsVal as + wordsVal bs) := by rw [hv]; ring
      _ = _ := by rw [hm]; simp only [W]; ring

theorem subWords_spec : ∀ (as bs : List Word) (bo : Bool), as.length = bs.length →
    (subWords as bs bo).1.length = as.length ∧
    (wordsVal (subWords as bs bo).1 : Int) - 2 ^ (W * as.length) * (subWords as bs bo).2.toNat =
      wordsVal as - wordsVal bs - bo.toNat
  | [], [], bo, _ => by simp [subWords, wordsVal]
  | a :: as, b :: bs, bo, h => by
    have ha : a.toNat < 2 ^ 64 := a.isLt
    have hb : b.toNat < 2 ^ 64 := b.isLt
    obtain ⟨hl, hv⟩ := subWords_spec as bs (decide ((a.toNat : Int) - b.toNat - bo.toNat < 0)) (by simpa using h)
    refine ⟨by simp only [subWords, List.length_cons, hl], ?_⟩
    have e : (2 : Int) ^ (W * (a :: as).length) = 2 ^ 64 * 2 ^ (W * as.length) := by
      rw [← pow_add]; congr 1; simp only [List.length_cons, W]; omega
    have hc1 : bo.toNat ≤ 1 := Bool.toNat_le bo
    have hd : ((decide ((a.toNat : Int) - b.toNat - bo.toNat < 0)).toNat : Int) =
        -(((a.toNat : Int) - b.toNat - bo.toNat) / 2 ^ 64) := by
      by_cases hc : (a.toNat : Int) - b.toNat - bo.toNat < 0 <;>
        simp only [hc, decide_true, decide_false, Bool.toNat_true, Bool.toNat_false] <;> omega
    have hr : ((BitVec.ofInt 64 ((a.toNat : Int) - b.toNat - bo.toNat)).toNat : Int) =
        ((a.toNat : Int) - b.toNat - bo.toNat) % 2 ^ 64 := by
      rw [BitVec.toNat_ofInt]
      have : (0 : Int) ≤ ((a.toNat : Int) - b.toNat - bo.toNat) % ((2 ^ 64 : Nat) : Int) := Int.emod_nonneg _ (by norm_num)
      rw [Int.toNat_of_nonneg this]; norm_num
    have hm := Int.emod_add_mul_ediv ((a.toNat : Int) - b.toNat - bo.toNat) (2 ^ 64)
    rw [hd] at hv
    simp only [subWords, wordsVal]
    push_cast
    rw [e, hr]
    simp only [W] at hv hm ⊢
    linear_combination (2 ^ 64 : Int) * hv + hm

/-! MODADD's and MODSUB's selections. -/

/-- On operands below the modulus, MODADD's selection is the sum modulo it (42_word_adder R423). -/
theorem modaddValue_spec {as bs ms : List Word} (h1 : as.length = bs.length) (h2 : as.length = ms.length)
   (ha : wordsVal as < wordsVal ms) (hb : wordsVal bs < wordsVal ms) :
   modaddValue as bs ms = (wordsVal as + wordsVal bs) % wordsVal ms := by
  obtain ⟨hl, hv⟩ := addWords_spec as bs false h1
  obtain ⟨hl', hv'⟩ := subWords_spec (addWords as bs false).1 ms false (by rw [hl, h2])
  have hlt := wordsVal_lt (addWords as bs false).1
  have hlt' := wordsVal_lt (subWords (addWords as bs false).1 ms false).1
  have hm := wordsVal_lt ms
  rw [← h2] at hm
  rw [hl', hl] at hlt'
  rw [hl] at hv' hlt
  have e2 : ((2:Int) ^ (W * as.length)) = ((2 ^ (W * as.length) : Nat) : Int) := by push_cast; rfl
  rw [e2] at hv'
  unfold modaddValue
  simp only
  generalize wordsVal (subWords (addWords as bs false).1 ms false).1 = D at *
  generalize wordsVal (addWords as bs false).1 = S at *
  generalize 2 ^ (W * as.length) = P at *
  generalize wordsVal as = A at *
  generalize wordsVal bs = B at *
  generalize wordsVal ms = M at *
  cases hc : (addWords as bs false).2 <;> rw [hc] at hv <;> cases hd : (subWords (addWords as bs false).1 ms false).2 <;> rw [hd] at hv' <;> simp at hv hv' ⊢
  · rw [← hv, Nat.mod_eq_sub_mod (by omega), Nat.mod_eq_of_lt (by omega)]; omega
  · rw [← hv, Nat.mod_eq_of_lt (by omega)]
  · rw [← hv, Nat.mod_eq_sub_mod (by omega), Nat.mod_eq_of_lt (by omega)]; omega
  · rw [← hv, Nat.mod_eq_sub_mod (by omega), Nat.mod_eq_of_lt (by omega)]; omega

/-- On operands below the modulus, MODSUB's selection is the difference modulo it (42_word_adder R424). -/
theorem modsubValue_spec {as bs ms : List Word} (h1 : as.length = bs.length) (h2 : as.length = ms.length)
   (ha : wordsVal as < wordsVal ms) (hb : wordsVal bs < wordsVal ms) :
   modsubValue as bs ms = (wordsVal as + wordsVal ms - wordsVal bs) % wordsVal ms := by
  obtain ⟨hl, hv⟩ := subWords_spec as bs false h1
  obtain ⟨hl', hv'⟩ := addWords_spec (subWords as bs false).1 ms false (by rw [hl, h2])
  have hlt := wordsVal_lt (subWords as bs false).1
  have hlt' := wordsVal_lt (addWords (subWords as bs false).1 ms false).1
  have hm := wordsVal_lt ms
  rw [← h2] at hm
  rw [hl', hl] at hlt'
  rw [hl] at hv' hlt
  have e2 : ((2:Int) ^ (W * as.length)) = ((2 ^ (W * as.length) : Nat) : Int) := by push_cast; rfl
  rw [e2] at hv
  unfold modsubValue
  simp only
  generalize wordsVal (addWords (subWords as bs false).1 ms false).1 = D at *
  generalize wordsVal (subWords as bs false).1 = S at *
  generalize 2 ^ (W * as.length) = P at *
  generalize wordsVal as = A at *
  generalize wordsVal bs = B at *
  generalize wordsVal ms = M at *
  cases hc : (subWords as bs false).2 <;> rw [hc] at hv <;> cases hd : (addWords (subWords as bs false).1 ms false).2 <;> rw [hd] at hv' <;> simp at hv hv' ⊢
  · rw [Nat.mod_eq_sub_mod (by omega), Nat.mod_eq_of_lt (by omega)]; omega
  · rw [Nat.mod_eq_sub_mod (by omega), Nat.mod_eq_of_lt (by omega)]; omega
  · rw [Nat.mod_eq_of_lt (by omega)]; omega
  · rw [Nat.mod_eq_of_lt (by omega)]; omega

/-! The bitmask blend and the difference. -/

theorem blendWords_ones : ∀ {as bs : List Word}, as.length = bs.length → blendWords ones as bs = as
  | [], [], _ => rfl
  | a :: as, b :: bs, h => by
    have hab : (a &&& ones) ||| (b &&& ~~~ones) = a := by
      rw [show ~~~ones = 0#64 from by decide, show ones = BitVec.allOnes 64 from rfl, BitVec.and_allOnes, BitVec.and_zero,
        BitVec.or_zero]
    have := blendWords_ones (as := as) (bs := bs) (by simpa using h)
    rw [blendWords] at this ⊢
    rw [List.zipWith_cons_cons, this, hab]

theorem blendWords_zero : ∀ {as bs : List Word}, as.length = bs.length → blendWords 0 as bs = bs
  | [], [], _ => rfl
  | a :: as, b :: bs, h => by
    have hab : (a &&& (0 : Word)) ||| (b &&& ~~~(0 : Word)) = b := by
      rw [show ~~~(0 : Word) = BitVec.allOnes 64 from by decide, show (0 : Word) = 0#64 from rfl, BitVec.and_zero,
        BitVec.and_allOnes, BitVec.zero_or]
    have := blendWords_zero (as := as) (bs := bs) (by simpa using h)
    rw [blendWords] at this ⊢
    rw [List.zipWith_cons_cons, this, hab]

theorem foldl_or_eq_zero : ∀ (xs : List Word) (z : Word), xs.foldl (· ||| ·) z = 0 ↔ z = 0 ∧ ∀ x ∈ xs, x = 0
  | [], z => by simp
  | x :: xs, z => by
    have h : z ||| x = 0 ↔ z = 0 ∧ x = 0 := BitVec.or_eq_zero_iff
    rw [List.foldl_cons, foldl_or_eq_zero xs (z ||| x), h, List.forall_mem_cons, and_assoc]

/-- The difference is 0 exactly when the words agree. -/
theorem diffWords_eq_zero : ∀ {as bs : List Word}, as.length = bs.length → (diffWords as bs = 0 ↔ as = bs) := by
  intro as bs h
  rw [diffWords, foldl_or_eq_zero]
  simp only [true_and]
  induction as generalizing bs with
  | nil => cases bs <;> simp_all
  | cons a as ih =>
    cases bs with
    | nil => simp at h
    | cons b bs =>
      have hab : a ^^^ b = 0 ↔ a = b := BitVec.xor_eq_zero_iff
      rw [List.zipWith_cons_cons, List.forall_mem_cons, hab, ih (by simpa using h), List.cons.injEq]

/-! The modular inverse. -/

/-- What the Euclid loop keeps: each remainder is its coefficient times `a`, modulo `m`. With enough rounds it ends on
the coefficient of the divisor. -/
theorem euclid_spec (a m : Int) : ∀ (fuel r0 r1 : Nat) (t0 t1 : Int), r1 < fuel →
    t0 * a ≡ r0 [ZMOD m] → t1 * a ≡ r1 [ZMOD m] → euclid fuel r0 r1 t0 t1 * a ≡ Nat.gcd r0 r1 [ZMOD m]
  | 0, _, _, _, _, h, _, _ => absurd h (Nat.not_lt_zero _)
  | fuel + 1, r0, r1, t0, t1, h, h0, h1 => by
    rw [euclid]
    split
    · rename_i hz
      subst hz
      simpa using h0
    · rename_i hz
      have hpos : 0 < r1 := Nat.pos_of_ne_zero hz
      have hlt : r0 % r1 < r1 := Nat.mod_lt _ hpos
      have step : (t0 - ((r0 / r1 : Nat) : Int) * t1) * a ≡ ((r0 % r1 : Nat) : Int) [ZMOD m] := by
        have e : ((r0 % r1 : Nat) : Int) = r0 - ((r0 / r1 : Nat) : Int) * r1 := by
          have := Nat.mod_add_div r0 r1
          push_cast
          have h2 : (r0 : Int) % r1 + r1 * (r0 / r1) = r0 := Int.emod_add_mul_ediv _ _
          linarith [mul_comm (r1 : Int) (r0 / r1)]
        rw [e, sub_mul, mul_assoc]
        exact h0.sub (h1.mul_left _)
      have := euclid_spec a m fuel r1 (r0 % r1) t1 _ (by omega) h1 step
      rwa [Nat.gcd_comm r1, ← Nat.gcd_rec, Nat.gcd_comm r1 r0] at this

/-- `inv(a, m)` is the inverse of a unit: below `m`, and its product with `a` is 1 modulo `m` (00_scope R22). -/
theorem inv_spec {a m : Nat} (hm : 2 ≤ m) (hg : Nat.gcd a m = 1) : inv a m < m ∧ a * inv a m % m = 1 := by
  have hmz : (m : Int) ≠ 0 := by omega
  have h := euclid_spec (a : Int) (m : Int) (m + 1) m (a % m) 0 1
    (Nat.lt_succ_of_lt (Nat.mod_lt _ (by omega)))
    (by simp [Int.ModEq]) (by simp [Int.ModEq])
  have hg' : Nat.gcd m (a % m) = 1 := by rw [Nat.gcd_comm, ← Nat.gcd_rec, Nat.gcd_comm]; exact hg
  rw [hg'] at h
  have hnn : 0 ≤ euclid (m + 1) m (a % m) 0 1 % (m : Int) := Int.emod_nonneg _ hmz
  have hlt : euclid (m + 1) m (a % m) 0 1 % (m : Int) < m := Int.emod_lt_of_pos _ (by omega)
  have hc : ((inv a m : Nat) : Int) = euclid (m + 1) m (a % m) 0 1 % (m : Int) := Int.toNat_of_nonneg hnn
  refine ⟨by omega, ?_⟩
  have : ((a * inv a m % m : Nat) : Int) = 1 := by
    push_cast
    rw [hc, Int.mul_emod, Int.emod_emod_of_dvd _ dvd_rfl, ← Int.mul_emod, mul_comm]
    have h1 : (1 : Int) % m = 1 := Int.emod_eq_of_lt (by omega) (by omega)
    simpa [Int.ModEq, h1] using h
  exact_mod_cast this

/-- An inverse is the only one (00_scope R22: "the unique `x`"). -/
theorem inv_unique {a m x y : Nat} (hx : x < m) (hy : y < m) (hax : a * x % m = 1) (hay : a * y % m = 1) : x = y := by
  have hm : 1 < m := by
    by_contra h
    have : m = 1 := by omega
    subst this
    omega
  have h1 : x * (a * y) ≡ x * 1 [MOD m] := Nat.ModEq.mul_left x (by rw [Nat.ModEq, hay, Nat.mod_eq_of_lt]; omega)
  have h2 : y * (a * x) ≡ y * 1 [MOD m] := Nat.ModEq.mul_left y (by rw [Nat.ModEq, hax, Nat.mod_eq_of_lt]; omega)
  have h3 : x * (a * y) = y * (a * x) := by ring
  rw [h3, mul_one] at h1
  rw [mul_one] at h2
  exact (Nat.mod_eq_of_lt hx ▸ Nat.mod_eq_of_lt hy ▸ (h1.symm.trans h2))

/-- `w0 * m0inv mod 2^W = ONES` for an odd value (10_state R116). -/
theorem negInvWord_spec {v : Nat} (hodd : v % 2 = 1) : BitVec.ofNat 64 v * negInvWord v = ones := by
  have hg : Nat.gcd (v % 2 ^ 64) (2 ^ 64) = 1 := by
    refine Nat.Coprime.pow_right 64 ?_
    rw [Nat.coprime_two_right, Nat.odd_iff]
    omega
  obtain ⟨hlt, hv⟩ := inv_spec (by norm_num) hg
  apply BitVec.eq_of_toNat_eq
  rw [BitVec.toNat_mul, negInvWord]
  simp only [W, ones, BitVec.toNat_ofNat, BitVec.toNat_allOnes] at hv hlt ⊢
  generalize inv (v % 2 ^ 64) (2 ^ 64) = x at hv hlt
  generalize v % 2 ^ 64 = a at hv
  have hx : 0 < x := by
    rcases Nat.eq_zero_or_pos x with h | h
    · subst h; simp at hv
    · exact h
  have e : (2 ^ 64 - x) % 2 ^ 64 % 2 ^ 64 = 2 ^ 64 - x := by rw [Nat.mod_mod]; exact Nat.mod_eq_of_lt (by omega)
  rw [e]
  obtain ⟨q, hq⟩ : ∃ q, a * x = 2 ^ 64 * q + 1 := ⟨a * x / 2 ^ 64, by have := Nat.div_add_mod (a * x) (2 ^ 64); omega⟩
  have h1 : a * (2 ^ 64 - x) + (2 ^ 64 * q + 1) = 2 ^ 64 * a := by
    rw [← hq, ← Nat.mul_add, Nat.sub_add_cancel (by omega), Nat.mul_comm]
  omega

/-! The Montgomery iteration. -/

/-- One iteration divides exactly and keeps `T < 2m` (43_montgomery R442): with `m * mi ≡ -1 mod 2^w`, `B < m` and
`ai < 2^w`, `2^w` times the new `T` is the old `T` plus `ai*B` plus a multiple of `m`. -/
theorem montStep_spec {w m mi B ai T : Nat} (hmi : (m * mi + 1) % 2 ^ w = 0) (hB : B < m) (ha : ai < 2 ^ w)
    (hT : T < 2 * m) :
    (∃ u, 2 ^ w * montStep w m mi B ai T = T + ai * B + u * m) ∧ montStep w m mi B ai T < 2 * m := by
  have hp : 0 < 2 ^ w := Nat.two_pow_pos w
  set t := T + ai * B with ht
  set u := t % 2 ^ w * mi % 2 ^ w with hu
  have hdvd : 2 ^ w ∣ t + u * m := by
    have h1 : t + u * m ≡ t + t * mi * m [MOD 2 ^ w] := by
      refine Nat.ModEq.add_left t (Nat.ModEq.mul_right m ?_)
      rw [hu]
      exact (Nat.mod_modEq _ _).trans (Nat.ModEq.mul_right mi (Nat.mod_modEq t _))
    have h2 : t + t * mi * m = t * (m * mi + 1) := by ring
    rw [h2] at h1
    exact (Nat.modEq_zero_iff_dvd.mp (h1.trans (Nat.modEq_zero_iff_dvd.mpr
      (Dvd.dvd.mul_left (Nat.dvd_of_mod_eq_zero hmi) t))))
  have hs : montStep w m mi B ai T = (t + u * m) / 2 ^ w := by rw [montStep, Nat.shiftRight_eq_div_pow]
  have hmul : 2 ^ w * montStep w m mi B ai T = t + u * m := by rw [hs, Nat.mul_div_cancel' hdvd]
  refine ⟨⟨u, hmul⟩, ?_⟩
  have hult : u < 2 ^ w := Nat.mod_lt _ hp
  have h1 : ai * B ≤ (2 ^ w - 1) * m := Nat.mul_le_mul (by omega) (by omega)
  have h2 : u * m ≤ (2 ^ w - 1) * m := Nat.mul_le_mul_right m (by omega)
  have h3 : 2 * ((2 ^ w - 1) * m) + 2 * m = 2 ^ w * (2 * m) := by
    obtain ⟨q, hq⟩ : ∃ q, 2 ^ w = q + 1 := ⟨2 ^ w - 1, by omega⟩
    rw [hq, Nat.add_sub_cancel]; ring
  have h4 : 2 ^ w * montStep w m mi B ai T < 2 ^ w * (2 * m) := by rw [hmul, ht]; omega
  exact Nat.lt_of_mul_lt_mul_left h4

end Sys2Proof.Machine
end

