-- ==== Sys2Proof/Laws/State.lean ====
section
/-! SUPPORT. One lemma per field per update of State, true by rfl, so that no proof unfolds a record update; and reading a register after writing one. -/

namespace Sys2Proof.Machine

variable (s : State)

@[simp] theorem State.setNat_nats (r : NatIx) (x : NatReg) : (s.setNat r x).nats = s.nats.set r x := rfl
@[simp] theorem State.setNat_slots (r : NatIx) (x : NatReg) : (s.setNat r x).slots = s.slots := rfl
@[simp] theorem State.setNat_choices (r : NatIx) (x : NatReg) : (s.setNat r x).choices = s.choices := rfl
@[simp] theorem State.setNat_carry (r : NatIx) (x : NatReg) : (s.setNat r x).carry = s.carry := rfl
@[simp] theorem State.setNat_okf (r : NatIx) (x : NatReg) : (s.setNat r x).okf = s.okf := rfl
@[simp] theorem State.setNat_doneie (r : NatIx) (x : NatReg) : (s.setNat r x).doneie = s.doneie := rfl
@[simp] theorem State.setNat_faultie (r : NatIx) (x : NatReg) : (s.setNat r x).faultie = s.faultie := rfl
@[simp] theorem State.setNat_busy (r : NatIx) (x : NatReg) : (s.setNat r x).busy = s.busy := rfl
@[simp] theorem State.setNat_done (r : NatIx) (x : NatReg) : (s.setNat r x).done = s.done := rfl
@[simp] theorem State.setNat_fault (r : NatIx) (x : NatReg) : (s.setNat r x).fault = s.fault := rfl
@[simp] theorem State.setNat_faultCode (r : NatIx) (x : NatReg) : (s.setNat r x).faultCode = s.faultCode := rfl
@[simp] theorem State.setNat_lastCmd (r : NatIx) (x : NatReg) : (s.setNat r x).lastCmd = s.lastCmd := rfl
@[simp] theorem State.setNat_faultData (r : NatIx) (x : NatReg) : (s.setNat r x).faultData = s.faultData := rfl
@[simp] theorem State.setNat_faultAddr (r : NatIx) (x : NatReg) : (s.setNat r x).faultAddr = s.faultAddr := rfl
@[simp] theorem State.setNat_elen (r : NatIx) (x : NatReg) : (s.setNat r x).elen = s.elen := rfl
@[simp] theorem State.setNat_eshort (r : NatIx) (x : NatReg) : (s.setNat r x).eshort = s.eshort := rfl
@[simp] theorem State.setNat_pend (r : NatIx) (x : NatReg) : (s.setNat r x).pend = s.pend := rfl
@[simp] theorem State.setNat_rstIn (r : NatIx) (x : NatReg) : (s.setNat r x).rstIn = s.rstIn := rfl
@[simp] theorem State.setNat_events (r : NatIx) (x : NatReg) : (s.setNat r x).events = s.events := rfl
@[simp] theorem State.setNat_rdata (r : NatIx) (x : NatReg) : (s.setNat r x).rdata = s.rdata := rfl
@[simp] theorem State.setNat_draws (r : NatIx) (x : NatReg) : (s.setNat r x).draws = s.draws := rfl

@[simp] theorem State.setSlot_nats (k : SlotIx) (m : Slot) : (s.setSlot k m).nats = s.nats := rfl
@[simp] theorem State.setSlot_slots (k : SlotIx) (m : Slot) : (s.setSlot k m).slots = s.slots.set k m := rfl
@[simp] theorem State.setSlot_choices (k : SlotIx) (m : Slot) : (s.setSlot k m).choices = s.choices := rfl
@[simp] theorem State.setSlot_carry (k : SlotIx) (m : Slot) : (s.setSlot k m).carry = s.carry := rfl
@[simp] theorem State.setSlot_okf (k : SlotIx) (m : Slot) : (s.setSlot k m).okf = s.okf := rfl
@[simp] theorem State.setSlot_doneie (k : SlotIx) (m : Slot) : (s.setSlot k m).doneie = s.doneie := rfl
@[simp] theorem State.setSlot_faultie (k : SlotIx) (m : Slot) : (s.setSlot k m).faultie = s.faultie := rfl
@[simp] theorem State.setSlot_busy (k : SlotIx) (m : Slot) : (s.setSlot k m).busy = s.busy := rfl
@[simp] theorem State.setSlot_done (k : SlotIx) (m : Slot) : (s.setSlot k m).done = s.done := rfl
@[simp] theorem State.setSlot_fault (k : SlotIx) (m : Slot) : (s.setSlot k m).fault = s.fault := rfl
@[simp] theorem State.setSlot_faultCode (k : SlotIx) (m : Slot) : (s.setSlot k m).faultCode = s.faultCode := rfl
@[simp] theorem State.setSlot_lastCmd (k : SlotIx) (m : Slot) : (s.setSlot k m).lastCmd = s.lastCmd := rfl
@[simp] theorem State.setSlot_faultData (k : SlotIx) (m : Slot) : (s.setSlot k m).faultData = s.faultData := rfl
@[simp] theorem State.setSlot_faultAddr (k : SlotIx) (m : Slot) : (s.setSlot k m).faultAddr = s.faultAddr := rfl
@[simp] theorem State.setSlot_elen (k : SlotIx) (m : Slot) : (s.setSlot k m).elen = s.elen := rfl
@[simp] theorem State.setSlot_eshort (k : SlotIx) (m : Slot) : (s.setSlot k m).eshort = s.eshort := rfl
@[simp] theorem State.setSlot_pend (k : SlotIx) (m : Slot) : (s.setSlot k m).pend = s.pend := rfl
@[simp] theorem State.setSlot_rstIn (k : SlotIx) (m : Slot) : (s.setSlot k m).rstIn = s.rstIn := rfl
@[simp] theorem State.setSlot_events (k : SlotIx) (m : Slot) : (s.setSlot k m).events = s.events := rfl
@[simp] theorem State.setSlot_rdata (k : SlotIx) (m : Slot) : (s.setSlot k m).rdata = s.rdata := rfl
@[simp] theorem State.setSlot_draws (k : SlotIx) (m : Slot) : (s.setSlot k m).draws = s.draws := rfl

@[simp] theorem State.setChoice_nats (k : ChoiceIx) (v : Word) : (s.setChoice k v).nats = s.nats := rfl
@[simp] theorem State.setChoice_slots (k : ChoiceIx) (v : Word) : (s.setChoice k v).slots = s.slots := rfl
@[simp] theorem State.setChoice_choices (k : ChoiceIx) (v : Word) : (s.setChoice k v).choices = s.choices.set k v := rfl
@[simp] theorem State.setChoice_carry (k : ChoiceIx) (v : Word) : (s.setChoice k v).carry = s.carry := rfl
@[simp] theorem State.setChoice_okf (k : ChoiceIx) (v : Word) : (s.setChoice k v).okf = s.okf := rfl
@[simp] theorem State.setChoice_doneie (k : ChoiceIx) (v : Word) : (s.setChoice k v).doneie = s.doneie := rfl
@[simp] theorem State.setChoice_faultie (k : ChoiceIx) (v : Word) : (s.setChoice k v).faultie = s.faultie := rfl
@[simp] theorem State.setChoice_busy (k : ChoiceIx) (v : Word) : (s.setChoice k v).busy = s.busy := rfl
@[simp] theorem State.setChoice_done (k : ChoiceIx) (v : Word) : (s.setChoice k v).done = s.done := rfl
@[simp] theorem State.setChoice_fault (k : ChoiceIx) (v : Word) : (s.setChoice k v).fault = s.fault := rfl
@[simp] theorem State.setChoice_faultCode (k : ChoiceIx) (v : Word) : (s.setChoice k v).faultCode = s.faultCode := rfl
@[simp] theorem State.setChoice_lastCmd (k : ChoiceIx) (v : Word) : (s.setChoice k v).lastCmd = s.lastCmd := rfl
@[simp] theorem State.setChoice_faultData (k : ChoiceIx) (v : Word) : (s.setChoice k v).faultData = s.faultData := rfl
@[simp] theorem State.setChoice_faultAddr (k : ChoiceIx) (v : Word) : (s.setChoice k v).faultAddr = s.faultAddr := rfl
@[simp] theorem State.setChoice_elen (k : ChoiceIx) (v : Word) : (s.setChoice k v).elen = s.elen := rfl
@[simp] theorem State.setChoice_eshort (k : ChoiceIx) (v : Word) : (s.setChoice k v).eshort = s.eshort := rfl
@[simp] theorem State.setChoice_pend (k : ChoiceIx) (v : Word) : (s.setChoice k v).pend = s.pend := rfl
@[simp] theorem State.setChoice_rstIn (k : ChoiceIx) (v : Word) : (s.setChoice k v).rstIn = s.rstIn := rfl
@[simp] theorem State.setChoice_events (k : ChoiceIx) (v : Word) : (s.setChoice k v).events = s.events := rfl
@[simp] theorem State.setChoice_rdata (k : ChoiceIx) (v : Word) : (s.setChoice k v).rdata = s.rdata := rfl
@[simp] theorem State.setChoice_draws (k : ChoiceIx) (v : Word) : (s.setChoice k v).draws = s.draws := rfl

@[simp] theorem State.writeNat_nats (d : NatIx) (v : Nat) (n : Len) : (s.writeNat d v n).nats = s.nats.set d { len := n, w := wordsOf v n } := rfl
@[simp] theorem State.writeNat_slots (d : NatIx) (v : Nat) (n : Len) : (s.writeNat d v n).slots = s.slots := rfl
@[simp] theorem State.writeNat_choices (d : NatIx) (v : Nat) (n : Len) : (s.writeNat d v n).choices = s.choices := rfl
@[simp] theorem State.writeNat_carry (d : NatIx) (v : Nat) (n : Len) : (s.writeNat d v n).carry = s.carry := rfl
@[simp] theorem State.writeNat_okf (d : NatIx) (v : Nat) (n : Len) : (s.writeNat d v n).okf = s.okf := rfl
@[simp] theorem State.writeNat_doneie (d : NatIx) (v : Nat) (n : Len) : (s.writeNat d v n).doneie = s.doneie := rfl
@[simp] theorem State.writeNat_faultie (d : NatIx) (v : Nat) (n : Len) : (s.writeNat d v n).faultie = s.faultie := rfl
@[simp] theorem State.writeNat_busy (d : NatIx) (v : Nat) (n : Len) : (s.writeNat d v n).busy = s.busy := rfl
@[simp] theorem State.writeNat_done (d : NatIx) (v : Nat) (n : Len) : (s.writeNat d v n).done = s.done := rfl
@[simp] theorem State.writeNat_fault (d : NatIx) (v : Nat) (n : Len) : (s.writeNat d v n).fault = s.fault := rfl
@[simp] theorem State.writeNat_faultCode (d : NatIx) (v : Nat) (n : Len) : (s.writeNat d v n).faultCode = s.faultCode := rfl
@[simp] theorem State.writeNat_lastCmd (d : NatIx) (v : Nat) (n : Len) : (s.writeNat d v n).lastCmd = s.lastCmd := rfl
@[simp] theorem State.writeNat_faultData (d : NatIx) (v : Nat) (n : Len) : (s.writeNat d v n).faultData = s.faultData := rfl
@[simp] theorem State.writeNat_faultAddr (d : NatIx) (v : Nat) (n : Len) : (s.writeNat d v n).faultAddr = s.faultAddr := rfl
@[simp] theorem State.writeNat_elen (d : NatIx) (v : Nat) (n : Len) : (s.writeNat d v n).elen = s.elen := rfl
@[simp] theorem State.writeNat_eshort (d : NatIx) (v : Nat) (n : Len) : (s.writeNat d v n).eshort = s.eshort := rfl
@[simp] theorem State.writeNat_pend (d : NatIx) (v : Nat) (n : Len) : (s.writeNat d v n).pend = s.pend := rfl
@[simp] theorem State.writeNat_rstIn (d : NatIx) (v : Nat) (n : Len) : (s.writeNat d v n).rstIn = s.rstIn := rfl
@[simp] theorem State.writeNat_events (d : NatIx) (v : Nat) (n : Len) : (s.writeNat d v n).events = s.events := rfl
@[simp] theorem State.writeNat_rdata (d : NatIx) (v : Nat) (n : Len) : (s.writeNat d v n).rdata = s.rdata := rfl
@[simp] theorem State.writeNat_draws (d : NatIx) (v : Nat) (n : Len) : (s.writeNat d v n).draws = s.draws := rfl

@[simp] theorem State.drawn_nats (n : Nat) : (s.drawn n).nats = s.nats := rfl
@[simp] theorem State.drawn_slots (n : Nat) : (s.drawn n).slots = s.slots := rfl
@[simp] theorem State.drawn_choices (n : Nat) : (s.drawn n).choices = s.choices := rfl
@[simp] theorem State.drawn_carry (n : Nat) : (s.drawn n).carry = s.carry := rfl
@[simp] theorem State.drawn_okf (n : Nat) : (s.drawn n).okf = s.okf := rfl
@[simp] theorem State.drawn_doneie (n : Nat) : (s.drawn n).doneie = s.doneie := rfl
@[simp] theorem State.drawn_faultie (n : Nat) : (s.drawn n).faultie = s.faultie := rfl
@[simp] theorem State.drawn_busy (n : Nat) : (s.drawn n).busy = s.busy := rfl
@[simp] theorem State.drawn_done (n : Nat) : (s.drawn n).done = s.done := rfl
@[simp] theorem State.drawn_fault (n : Nat) : (s.drawn n).fault = s.fault := rfl
@[simp] theorem State.drawn_faultCode (n : Nat) : (s.drawn n).faultCode = s.faultCode := rfl
@[simp] theorem State.drawn_lastCmd (n : Nat) : (s.drawn n).lastCmd = s.lastCmd := rfl
@[simp] theorem State.drawn_faultData (n : Nat) : (s.drawn n).faultData = s.faultData := rfl
@[simp] theorem State.drawn_faultAddr (n : Nat) : (s.drawn n).faultAddr = s.faultAddr := rfl
@[simp] theorem State.drawn_elen (n : Nat) : (s.drawn n).elen = s.elen := rfl
@[simp] theorem State.drawn_eshort (n : Nat) : (s.drawn n).eshort = s.eshort := rfl
@[simp] theorem State.drawn_pend (n : Nat) : (s.drawn n).pend = s.pend := rfl
@[simp] theorem State.drawn_rstIn (n : Nat) : (s.drawn n).rstIn = s.rstIn := rfl
@[simp] theorem State.drawn_events (n : Nat) : (s.drawn n).events = s.events := rfl
@[simp] theorem State.drawn_rdata (n : Nat) : (s.drawn n).rdata = s.rdata := rfl
@[simp] theorem State.drawn_draws (n : Nat) : (s.drawn n).draws = s.draws + n := rfl

@[simp] theorem State.complete_nats : s.complete.nats = s.nats := rfl
@[simp] theorem State.complete_slots : s.complete.slots = s.slots := rfl
@[simp] theorem State.complete_choices : s.complete.choices = s.choices := rfl
@[simp] theorem State.complete_carry : s.complete.carry = s.carry := rfl
@[simp] theorem State.complete_okf : s.complete.okf = s.okf := rfl
@[simp] theorem State.complete_doneie : s.complete.doneie = s.doneie := rfl
@[simp] theorem State.complete_faultie : s.complete.faultie = s.faultie := rfl
@[simp] theorem State.complete_busy : s.complete.busy = false := rfl
@[simp] theorem State.complete_done : s.complete.done = true := rfl
@[simp] theorem State.complete_fault : s.complete.fault = s.fault := rfl
@[simp] theorem State.complete_faultCode : s.complete.faultCode = s.faultCode := rfl
@[simp] theorem State.complete_lastCmd : s.complete.lastCmd = s.lastCmd := rfl
@[simp] theorem State.complete_faultData : s.complete.faultData = s.faultData := rfl
@[simp] theorem State.complete_faultAddr : s.complete.faultAddr = s.faultAddr := rfl
@[simp] theorem State.complete_elen : s.complete.elen = s.elen := rfl
@[simp] theorem State.complete_eshort : s.complete.eshort = s.eshort := rfl
@[simp] theorem State.complete_pend : s.complete.pend = s.pend := rfl
@[simp] theorem State.complete_rstIn : s.complete.rstIn = s.rstIn := rfl
@[simp] theorem State.complete_events : s.complete.events = s.events := rfl
@[simp] theorem State.complete_rdata : s.complete.rdata = s.rdata := rfl
@[simp] theorem State.complete_draws : s.complete.draws = s.draws := rfl

@[simp] theorem State.answer_nats (v : Word) : (s.answer v).nats = s.nats := rfl
@[simp] theorem State.answer_slots (v : Word) : (s.answer v).slots = s.slots := rfl
@[simp] theorem State.answer_choices (v : Word) : (s.answer v).choices = s.choices := rfl
@[simp] theorem State.answer_carry (v : Word) : (s.answer v).carry = s.carry := rfl
@[simp] theorem State.answer_okf (v : Word) : (s.answer v).okf = s.okf := rfl
@[simp] theorem State.answer_doneie (v : Word) : (s.answer v).doneie = s.doneie := rfl
@[simp] theorem State.answer_faultie (v : Word) : (s.answer v).faultie = s.faultie := rfl
@[simp] theorem State.answer_busy (v : Word) : (s.answer v).busy = s.busy := rfl
@[simp] theorem State.answer_done (v : Word) : (s.answer v).done = s.done := rfl
@[simp] theorem State.answer_fault (v : Word) : (s.answer v).fault = s.fault := rfl
@[simp] theorem State.answer_faultCode (v : Word) : (s.answer v).faultCode = s.faultCode := rfl
@[simp] theorem State.answer_lastCmd (v : Word) : (s.answer v).lastCmd = s.lastCmd := rfl
@[simp] theorem State.answer_faultData (v : Word) : (s.answer v).faultData = s.faultData := rfl
@[simp] theorem State.answer_faultAddr (v : Word) : (s.answer v).faultAddr = s.faultAddr := rfl
@[simp] theorem State.answer_elen (v : Word) : (s.answer v).elen = s.elen := rfl
@[simp] theorem State.answer_eshort (v : Word) : (s.answer v).eshort = s.eshort := rfl
@[simp] theorem State.answer_pend (v : Word) : (s.answer v).pend = s.pend := rfl
@[simp] theorem State.answer_rstIn (v : Word) : (s.answer v).rstIn = s.rstIn := rfl
@[simp] theorem State.answer_events (v : Word) : (s.answer v).events = s.events := rfl
@[simp] theorem State.answer_rdata (v : Word) : (s.answer v).rdata = v := rfl
@[simp] theorem State.answer_draws (v : Word) : (s.answer v).draws = s.draws := rfl

@[simp] theorem State.latch_nats (v : Word) : (s.latch v).nats = s.nats := rfl
@[simp] theorem State.latch_slots (v : Word) : (s.latch v).slots = s.slots := rfl
@[simp] theorem State.latch_choices (v : Word) : (s.latch v).choices = s.choices := rfl
@[simp] theorem State.latch_carry (v : Word) : (s.latch v).carry = s.carry := rfl
@[simp] theorem State.latch_okf (v : Word) : (s.latch v).okf = s.okf := rfl
@[simp] theorem State.latch_doneie (v : Word) : (s.latch v).doneie = s.doneie := rfl
@[simp] theorem State.latch_faultie (v : Word) : (s.latch v).faultie = s.faultie := rfl
@[simp] theorem State.latch_busy (v : Word) : (s.latch v).busy = true := rfl
@[simp] theorem State.latch_done (v : Word) : (s.latch v).done = false := rfl
@[simp] theorem State.latch_fault (v : Word) : (s.latch v).fault = s.fault := rfl
@[simp] theorem State.latch_faultCode (v : Word) : (s.latch v).faultCode = s.faultCode := rfl
@[simp] theorem State.latch_lastCmd (v : Word) : (s.latch v).lastCmd = s.lastCmd := rfl
@[simp] theorem State.latch_faultData (v : Word) : (s.latch v).faultData = s.faultData := rfl
@[simp] theorem State.latch_faultAddr (v : Word) : (s.latch v).faultAddr = s.faultAddr := rfl
@[simp] theorem State.latch_elen (v : Word) : (s.latch v).elen = s.elen := rfl
@[simp] theorem State.latch_eshort (v : Word) : (s.latch v).eshort = s.eshort := rfl
@[simp] theorem State.latch_pend (v : Word) : (s.latch v).pend = v.extractLsb' 0 32 := rfl
@[simp] theorem State.latch_rstIn (v : Word) : (s.latch v).rstIn = s.rstIn := rfl
@[simp] theorem State.latch_events (v : Word) : (s.latch v).events = s.events := rfl
@[simp] theorem State.latch_rdata (v : Word) : (s.latch v).rdata = s.rdata := rfl
@[simp] theorem State.latch_draws (v : Word) : (s.latch v).draws = s.draws := rfl

@[simp] theorem State.resetBlock_nats : s.resetBlock.nats = State.reset.nats := rfl
@[simp] theorem State.resetBlock_slots : s.resetBlock.slots = State.reset.slots := rfl
@[simp] theorem State.resetBlock_choices : s.resetBlock.choices = State.reset.choices := rfl
@[simp] theorem State.resetBlock_carry : s.resetBlock.carry = State.reset.carry := rfl
@[simp] theorem State.resetBlock_okf : s.resetBlock.okf = State.reset.okf := rfl
@[simp] theorem State.resetBlock_doneie : s.resetBlock.doneie = State.reset.doneie := rfl
@[simp] theorem State.resetBlock_faultie : s.resetBlock.faultie = State.reset.faultie := rfl
@[simp] theorem State.resetBlock_busy : s.resetBlock.busy = State.reset.busy := rfl
@[simp] theorem State.resetBlock_done : s.resetBlock.done = State.reset.done := rfl
@[simp] theorem State.resetBlock_fault : s.resetBlock.fault = State.reset.fault := rfl
@[simp] theorem State.resetBlock_faultCode : s.resetBlock.faultCode = State.reset.faultCode := rfl
@[simp] theorem State.resetBlock_lastCmd : s.resetBlock.lastCmd = State.reset.lastCmd := rfl
@[simp] theorem State.resetBlock_faultData : s.resetBlock.faultData = State.reset.faultData := rfl
@[simp] theorem State.resetBlock_faultAddr : s.resetBlock.faultAddr = State.reset.faultAddr := rfl
@[simp] theorem State.resetBlock_elen : s.resetBlock.elen = State.reset.elen := rfl
@[simp] theorem State.resetBlock_eshort : s.resetBlock.eshort = State.reset.eshort := rfl
@[simp] theorem State.resetBlock_pend : s.resetBlock.pend = State.reset.pend := rfl
@[simp] theorem State.resetBlock_rstIn : s.resetBlock.rstIn = s.rstIn := rfl
@[simp] theorem State.resetBlock_events : s.resetBlock.events = s.events := rfl
@[simp] theorem State.resetBlock_rdata : s.resetBlock.rdata = s.rdata := rfl
@[simp] theorem State.resetBlock_draws : s.resetBlock.draws = s.draws := rfl

@[simp] theorem State.placeCommand_nats (w : BitVec 32) : (s.placeCommand w).nats = s.nats := rfl
@[simp] theorem State.placeCommand_slots (w : BitVec 32) : (s.placeCommand w).slots = s.slots := rfl
@[simp] theorem State.placeCommand_choices (w : BitVec 32) : (s.placeCommand w).choices = s.choices := rfl
@[simp] theorem State.placeCommand_carry (w : BitVec 32) : (s.placeCommand w).carry = s.carry := rfl
@[simp] theorem State.placeCommand_okf (w : BitVec 32) : (s.placeCommand w).okf = s.okf := rfl
@[simp] theorem State.placeCommand_doneie (w : BitVec 32) : (s.placeCommand w).doneie = s.doneie := rfl
@[simp] theorem State.placeCommand_faultie (w : BitVec 32) : (s.placeCommand w).faultie = s.faultie := rfl
@[simp] theorem State.placeCommand_busy (w : BitVec 32) : (s.placeCommand w).busy = true := rfl
@[simp] theorem State.placeCommand_done (w : BitVec 32) : (s.placeCommand w).done = s.done := rfl
@[simp] theorem State.placeCommand_fault (w : BitVec 32) : (s.placeCommand w).fault = s.fault := rfl
@[simp] theorem State.placeCommand_faultCode (w : BitVec 32) : (s.placeCommand w).faultCode = s.faultCode := rfl
@[simp] theorem State.placeCommand_lastCmd (w : BitVec 32) : (s.placeCommand w).lastCmd = s.lastCmd := rfl
@[simp] theorem State.placeCommand_faultData (w : BitVec 32) : (s.placeCommand w).faultData = s.faultData := rfl
@[simp] theorem State.placeCommand_faultAddr (w : BitVec 32) : (s.placeCommand w).faultAddr = s.faultAddr := rfl
@[simp] theorem State.placeCommand_elen (w : BitVec 32) : (s.placeCommand w).elen = s.elen := rfl
@[simp] theorem State.placeCommand_eshort (w : BitVec 32) : (s.placeCommand w).eshort = s.eshort := rfl
@[simp] theorem State.placeCommand_pend (w : BitVec 32) : (s.placeCommand w).pend = w := rfl
@[simp] theorem State.placeCommand_rstIn (w : BitVec 32) : (s.placeCommand w).rstIn = false := rfl
@[simp] theorem State.placeCommand_events (w : BitVec 32) : (s.placeCommand w).events = .engine :: s.events := rfl
@[simp] theorem State.placeCommand_rdata (w : BitVec 32) : (s.placeCommand w).rdata = s.rdata := rfl
@[simp] theorem State.placeCommand_draws (w : BitVec 32) : (s.placeCommand w).draws = s.draws := rfl

@[simp] theorem State.raiseFault_nats (c : FaultCode) (a v : Word) : (s.raiseFault c a v).nats = s.nats := by
  unfold State.raiseFault; split <;> rfl
@[simp] theorem State.raiseFault_slots (c : FaultCode) (a v : Word) : (s.raiseFault c a v).slots = s.slots := by
  unfold State.raiseFault; split <;> rfl
@[simp] theorem State.raiseFault_choices (c : FaultCode) (a v : Word) : (s.raiseFault c a v).choices = s.choices := by
  unfold State.raiseFault; split <;> rfl
@[simp] theorem State.raiseFault_carry (c : FaultCode) (a v : Word) : (s.raiseFault c a v).carry = s.carry := by
  unfold State.raiseFault; split <;> rfl
@[simp] theorem State.raiseFault_okf (c : FaultCode) (a v : Word) : (s.raiseFault c a v).okf = s.okf := by
  unfold State.raiseFault; split <;> rfl
@[simp] theorem State.raiseFault_doneie (c : FaultCode) (a v : Word) : (s.raiseFault c a v).doneie = s.doneie := by
  unfold State.raiseFault; split <;> rfl
@[simp] theorem State.raiseFault_faultie (c : FaultCode) (a v : Word) : (s.raiseFault c a v).faultie = s.faultie := by
  unfold State.raiseFault; split <;> rfl
@[simp] theorem State.raiseFault_busy (c : FaultCode) (a v : Word) : (s.raiseFault c a v).busy = s.busy := by
  unfold State.raiseFault; split <;> rfl
@[simp] theorem State.raiseFault_done (c : FaultCode) (a v : Word) : (s.raiseFault c a v).done = s.done := by
  unfold State.raiseFault; split <;> rfl
@[simp] theorem State.raiseFault_lastCmd (c : FaultCode) (a v : Word) : (s.raiseFault c a v).lastCmd = s.lastCmd := by
  unfold State.raiseFault; split <;> rfl
@[simp] theorem State.raiseFault_elen (c : FaultCode) (a v : Word) : (s.raiseFault c a v).elen = s.elen := by
  unfold State.raiseFault; split <;> rfl
@[simp] theorem State.raiseFault_eshort (c : FaultCode) (a v : Word) : (s.raiseFault c a v).eshort = s.eshort := by
  unfold State.raiseFault; split <;> rfl
@[simp] theorem State.raiseFault_pend (c : FaultCode) (a v : Word) : (s.raiseFault c a v).pend = s.pend := by
  unfold State.raiseFault; split <;> rfl
@[simp] theorem State.raiseFault_rstIn (c : FaultCode) (a v : Word) : (s.raiseFault c a v).rstIn = s.rstIn := by
  unfold State.raiseFault; split <;> rfl
@[simp] theorem State.raiseFault_events (c : FaultCode) (a v : Word) : (s.raiseFault c a v).events = s.events := by
  unfold State.raiseFault; split <;> rfl
@[simp] theorem State.raiseFault_rdata (c : FaultCode) (a v : Word) : (s.raiseFault c a v).rdata = s.rdata := by
  unfold State.raiseFault; split <;> rfl
@[simp] theorem State.raiseFault_draws (c : FaultCode) (a v : Word) : (s.raiseFault c a v).draws = s.draws := by
  unfold State.raiseFault; split <;> rfl

@[simp] theorem State.abandon_nats (i : Instr) (c : FaultCode) : (s.abandon i c).nats = s.nats := by
  simp [State.abandon]
@[simp] theorem State.abandon_slots (i : Instr) (c : FaultCode) : (s.abandon i c).slots = s.slots := by
  simp [State.abandon]
@[simp] theorem State.abandon_choices (i : Instr) (c : FaultCode) : (s.abandon i c).choices = s.choices := by
  simp [State.abandon]
@[simp] theorem State.abandon_carry (i : Instr) (c : FaultCode) : (s.abandon i c).carry = s.carry := by
  simp [State.abandon]
@[simp] theorem State.abandon_okf (i : Instr) (c : FaultCode) : (s.abandon i c).okf = s.okf := by
  simp [State.abandon]
@[simp] theorem State.abandon_doneie (i : Instr) (c : FaultCode) : (s.abandon i c).doneie = s.doneie := by
  simp [State.abandon]
@[simp] theorem State.abandon_faultie (i : Instr) (c : FaultCode) : (s.abandon i c).faultie = s.faultie := by
  simp [State.abandon]
@[simp] theorem State.abandon_done (i : Instr) (c : FaultCode) : (s.abandon i c).done = s.done := by
  simp [State.abandon]
@[simp] theorem State.abandon_lastCmd (i : Instr) (c : FaultCode) : (s.abandon i c).lastCmd = s.lastCmd := by
  simp [State.abandon]
@[simp] theorem State.abandon_elen (i : Instr) (c : FaultCode) : (s.abandon i c).elen = s.elen := by
  simp [State.abandon]
@[simp] theorem State.abandon_eshort (i : Instr) (c : FaultCode) : (s.abandon i c).eshort = s.eshort := by
  simp [State.abandon]
@[simp] theorem State.abandon_pend (i : Instr) (c : FaultCode) : (s.abandon i c).pend = s.pend := by
  simp [State.abandon]
@[simp] theorem State.abandon_rstIn (i : Instr) (c : FaultCode) : (s.abandon i c).rstIn = s.rstIn := by
  simp [State.abandon]
@[simp] theorem State.abandon_events (i : Instr) (c : FaultCode) : (s.abandon i c).events = s.events := by
  simp [State.abandon]
@[simp] theorem State.abandon_rdata (i : Instr) (c : FaultCode) : (s.abandon i c).rdata = s.rdata := by
  simp [State.abandon]
@[simp] theorem State.abandon_draws (i : Instr) (c : FaultCode) : (s.abandon i c).draws = s.draws := by
  simp [State.abandon]
@[simp] theorem State.abandon_busy (i : Instr) (c : FaultCode) : (s.abandon i c).busy = false := rfl

/-! The registers by index. -/

@[simp] theorem State.setSlot_N (k : SlotIx) (m : Slot) (r : NatIx) : (s.setSlot k m).N r = s.N r := rfl
@[simp] theorem State.setChoice_N (k : ChoiceIx) (v : Word) (r : NatIx) : (s.setChoice k v).N r = s.N r := rfl
@[simp] theorem State.drawn_N (n : Nat) (r : NatIx) : (s.drawn n).N r = s.N r := rfl
@[simp] theorem State.complete_N (r : NatIx) : s.complete.N r = s.N r := rfl
@[simp] theorem State.answer_N (v : Word) (r : NatIx) : (s.answer v).N r = s.N r := rfl
@[simp] theorem State.latch_N (v : Word) (r : NatIx) : (s.latch v).N r = s.N r := rfl
@[simp] theorem State.placeCommand_N (w : BitVec 32) (r : NatIx) : (s.placeCommand w).N r = s.N r := rfl
@[simp] theorem State.raiseFault_N (co : FaultCode) (a v : Word) (r : NatIx) : (s.raiseFault co a v).N r = s.N r := by
  simp [State.N]
@[simp] theorem State.abandon_N (i : Instr) (co : FaultCode) (r : NatIx) : (s.abandon i co).N r = s.N r := by
  simp [State.N]

@[simp] theorem State.setNat_M (r : NatIx) (x : NatReg) (j : SlotIx) : (s.setNat r x).M j = s.M j := rfl
@[simp] theorem State.setChoice_M (k : ChoiceIx) (v : Word) (j : SlotIx) : (s.setChoice k v).M j = s.M j := rfl
@[simp] theorem State.writeNat_M (d : NatIx) (v : Nat) (n : Len) (j : SlotIx) : (s.writeNat d v n).M j = s.M j := rfl
@[simp] theorem State.drawn_M (n : Nat) (j : SlotIx) : (s.drawn n).M j = s.M j := rfl
@[simp] theorem State.complete_M (j : SlotIx) : s.complete.M j = s.M j := rfl
@[simp] theorem State.answer_M (v : Word) (j : SlotIx) : (s.answer v).M j = s.M j := rfl
@[simp] theorem State.latch_M (v : Word) (j : SlotIx) : (s.latch v).M j = s.M j := rfl
@[simp] theorem State.placeCommand_M (w : BitVec 32) (j : SlotIx) : (s.placeCommand w).M j = s.M j := rfl
@[simp] theorem State.raiseFault_M (co : FaultCode) (a v : Word) (j : SlotIx) : (s.raiseFault co a v).M j = s.M j := by
  simp [State.M]
@[simp] theorem State.abandon_M (i : Instr) (co : FaultCode) (j : SlotIx) : (s.abandon i co).M j = s.M j := by
  simp [State.M]

@[simp] theorem State.setNat_C (r : NatIx) (x : NatReg) (c : ChoiceIx) : (s.setNat r x).C c = s.C c := rfl
@[simp] theorem State.setSlot_C (k : SlotIx) (m : Slot) (c : ChoiceIx) : (s.setSlot k m).C c = s.C c := rfl
@[simp] theorem State.writeNat_C (d : NatIx) (v : Nat) (n : Len) (c : ChoiceIx) : (s.writeNat d v n).C c = s.C c := rfl
@[simp] theorem State.drawn_C (n : Nat) (c : ChoiceIx) : (s.drawn n).C c = s.C c := rfl
@[simp] theorem State.complete_C (c : ChoiceIx) : s.complete.C c = s.C c := rfl
@[simp] theorem State.answer_C (v : Word) (c : ChoiceIx) : (s.answer v).C c = s.C c := rfl
@[simp] theorem State.latch_C (v : Word) (c : ChoiceIx) : (s.latch v).C c = s.C c := rfl
@[simp] theorem State.placeCommand_C (w : BitVec 32) (c : ChoiceIx) : (s.placeCommand w).C c = s.C c := rfl
@[simp] theorem State.raiseFault_C (co : FaultCode) (a v : Word) (c : ChoiceIx) : (s.raiseFault co a v).C c = s.C c := by
  simp [State.C]
@[simp] theorem State.abandon_C (i : Instr) (co : FaultCode) (c : ChoiceIx) : (s.abandon i co).C c = s.C c := by
  simp [State.C]

@[simp] theorem State.setNat_N_same (r : NatIx) (x : NatReg) : (s.setNat r x).N r = x := by
  simp [State.N]

theorem State.setNat_N_ne (r r' : NatIx) (x : NatReg) (h : r' ≠ r) : (s.setNat r x).N r' = s.N r' := by
  have h' : r.val ≠ r'.val := fun e => h (Fin.ext e.symm)
  simp [State.N, Vector.getElem_set_ne, h']

@[simp] theorem State.setSlot_M_same (k : SlotIx) (m : Slot) : (s.setSlot k m).M k = m := by
  simp [State.M]

theorem State.setSlot_M_ne (k k' : SlotIx) (m : Slot) (h : k' ≠ k) : (s.setSlot k m).M k' = s.M k' := by
  have h' : k.val ≠ k'.val := fun e => h (Fin.ext e.symm)
  simp [State.M, Vector.getElem_set_ne, h']

@[simp] theorem State.setChoice_C_same (k : ChoiceIx) (v : Word) : (s.setChoice k v).C k = v := by
  simp [State.C]

theorem State.setChoice_C_ne (k k' : ChoiceIx) (v : Word) (h : k' ≠ k) : (s.setChoice k v).C k' = s.C k' := by
  have h' : k.val ≠ k'.val := fun e => h (Fin.ext e.symm)
  simp [State.C, Vector.getElem_set_ne, h']

@[simp] theorem State.writeNat_N_same (d : NatIx) (v : Nat) (n : Len) :
    (s.writeNat d v n).N d = { len := n, w := wordsOf v n } := s.setNat_N_same d _

theorem State.writeNat_N_ne (d r : NatIx) (v : Nat) (n : Len) (h : r ≠ d) : (s.writeNat d v n).N r = s.N r :=
  s.setNat_N_ne d r _ h

/-! Every register of the reset state. -/

@[simp] theorem State.reset_N (r : NatIx) : State.reset.N r = NatReg.zero := by
  simp [State.N, State.reset]

@[simp] theorem State.reset_M (k : SlotIx) : State.reset.M k = Slot.empty := by
  simp [State.M, State.reset]

@[simp] theorem State.reset_C (k : ChoiceIx) : State.reset.C k = 0 := by
  simp [State.C, State.reset]

@[simp] theorem State.resetBlock_N (r : NatIx) : s.resetBlock.N r = NatReg.zero := State.reset_N r

@[simp] theorem State.resetBlock_M (k : SlotIx) : s.resetBlock.M k = Slot.empty := State.reset_M k

@[simp] theorem State.resetBlock_C (k : ChoiceIx) : s.resetBlock.C k = 0 := State.reset_C k

/-- Two states with the same Nat registers by index have the same register file. -/
theorem State.nats_ext (t : State) (h : ∀ r, s.N r = t.N r) : s.nats = t.nats :=
  Vector.ext fun i hi => h ⟨i, hi⟩

theorem State.slots_ext (t : State) (h : ∀ k, s.M k = t.M k) : s.slots = t.slots :=
  Vector.ext fun i hi => h ⟨i, hi⟩

theorem State.choices_ext (t : State) (h : ∀ k, s.C k = t.C k) : s.choices = t.choices :=
  Vector.ext fun i hi => h ⟨i, hi⟩

end Sys2Proof.Machine
end

