-- ==== Sys2Proof/Laws/Ops.lean ====
section
/-! SUPPORT. What the shared operations do: one lemma per operation of Machine/Ops.lean and Machine/Bus.lean, to cite instead of unfolding it. -/

namespace Sys2Proof.Machine

open Sys2Proof.Config

/-! `write_nat` and the draws. -/

/-- `write_nat` leaves the value it was given, at the length it was given, with zero words above (00_scope R18). -/
theorem State.writeNat_holds (s : State) (d : NatIx) {v : Nat} {n : Len} (h : v < 2 ^ (W * n)) :
    ((s.writeNat d v n).N d).Holds v n := by
  rw [State.writeNat_N_same]
  refine ⟨rfl, ?_, fun i hi => ?_⟩
  · exact (wordsVal_take_wordsOf v n).trans (Nat.mod_eq_of_lt h)
  · simp [Nat.not_lt.mpr hi]

/-- `write_nat` of a value that fits writes the register `d` alone. -/
theorem State.writeNat_writes (s : State) (d : NatIx) {v : Nat} {n : Len} (h : v < 2 ^ (W * n)) :
    WritesNat s (s.writeNat d v n) d v n :=
  ⟨s.writeNat_holds d h, fun r hr => s.writeNat_N_ne d r v n hr⟩

/-- A draw fits its length, whatever it is (00_scope R19). -/
theorem State.nextDraw_lt (s : State) (n : Nat) : (s.nextDraw n).toNat < 2 ^ n := (s.nextDraw n).isLt

theorem State.drawNat_eq (s : State) (d : NatIx) (n : Len) :
    s.drawNat d n = (s.writeNat d (s.nextDraw (W * n)).toNat n).drawn 1 := rfl

/-- A residue is written as it is when the operands are reduced, else a draw stands for it (41_nat_and_modulus R402). -/
theorem State.writeResidue_reduced (s : State) (d : NatIx) (k : SlotIx) (v : Nat) :
    s.writeResidue true d k v = s.writeNat d v (s.M k).len := rfl

theorem State.writeResidue_unreduced (s : State) (d : NatIx) (k : SlotIx) (v : Nat) :
    s.writeResidue false d k v = s.drawNat d (s.M k).len := rfl

/-- Either way the residue's register `d` is all that `write_residue` changes but for the draw counter. -/
theorem State.writeResidue_cases (s : State) (b : Bool) (d : NatIx) (k : SlotIx) (v : Nat) :
    ∃ x n, s.writeResidue b d k v = (s.setNat d x).drawn n ∧ x.len = (s.M k).len := by
  cases b
  · exact ⟨_, 1, rfl, rfl⟩
  · exact ⟨_, 0, rfl, rfl⟩

/-! Lengths and reduced operands. -/

theorem minimalLen_val {v : Nat} (h : v < 2 ^ (W * NMAX)) : (minimalLen v).val = (bitlen v + (W - 1)) / W := by
  have := bitlen_le_of_lt h
  simp only [minimalLen, W, NMAX] at this ⊢
  omega

/-- A value fits the minimal number of words (41_nat_and_modulus R403). -/
theorem lt_radix_minimalLen {v : Nat} (h : v < 2 ^ (W * NMAX)) : v < 2 ^ (W * (minimalLen v).val) := by
  refine lt_of_lt_of_le (lt_two_pow_bitlen v) (Nat.pow_le_pow_right (by norm_num) ?_)
  rw [minimalLen_val h]
  simp only [W]
  omega

theorem NatReg.val_lt_max (x : NatReg) : x.val < 2 ^ (W * NMAX) := by
  refine lt_of_lt_of_le x.val_lt (Nat.pow_le_pow_right (by norm_num) ?_)
  have := x.len.isLt
  simp only [W, NMAX] at this ⊢
  omega

theorem State.reduced_iff (s : State) (r : NatIx) (k : SlotIx) : s.reduced r k = true ↔ (s.N r).val < (s.M k).mval := by
  simp [State.reduced]

/-! Raising a fault and the resets. -/

theorem State.raiseFault_of_fault {s : State} (h : s.fault = true) (c : FaultCode) (a v : Word) : s.raiseFault c a v = s := by
  simp [State.raiseFault, h]

theorem State.raiseFault_of_clear {s : State} (h : s.fault = false) (c : FaultCode) (a v : Word) :
    s.raiseFault c a v = { s with fault := true, faultCode := c, faultAddr := a, faultData := v } := by
  simp [State.raiseFault, h]

/-- A raised fault leaves FAULT = 1, with the first record kept (60_exceptions R603). -/
@[simp] theorem State.raiseFault_fault (s : State) (c : FaultCode) (a v : Word) : (s.raiseFault c a v).fault = true := by
  unfold State.raiseFault
  split
  · assumption
  · rfl

@[simp] theorem State.resetBlock_resetBlock (s : State) : s.resetBlock.resetBlock = s.resetBlock := rfl

/-! The command frame. -/

/-- A command either is faulted by the first check it fails, or has its effect and completes (60_exceptions R602, R611). -/
theorem command_cases (i : Instr) (f : State → State) (s : State) :
    (check i s = .noFault ∧ command i f s = .next (f s).complete) ∨
    (check i s ≠ .noFault ∧ command i f s = .next (s.abandon i (check i s))) := by
  unfold command
  split
  · exact .inl ⟨‹_›, rfl⟩
  · exact .inr ⟨‹_›, rfl⟩

theorem command_ok {i : Instr} {s : State} (h : check i s = .noFault) (f : State → State) :
    command i f s = .next (f s).complete := by
  simp [command, h]

theorem command_fault {i : Instr} {s : State} (h : check i s ≠ .noFault) (f : State → State) :
    command i f s = .next (s.abandon i (check i s)) := by
  simp [command, h]

/-- The check of a command passes exactly when its slot is valid and odd as it needs, its lengths match, and its
exponent fits (60_exceptions R602). -/
theorem check_eq_noFault (i : Instr) (s : State) :
    check i s = .noFault ↔
      (∀ k, inputSlot i = some k → (s.M k).valid = true ∧ (needsOdd i = true → (s.M k).odd = true)) ∧
      sizeOk i s = true ∧ exponentFits i s = true := by
  cases hk : inputSlot i <;> cases ho : needsOdd i <;> cases hs : sizeOk i s <;> cases he : exponentFits i s <;>
    simp [check, hk, ho, hs, he]
  all_goals try (rename_i k; cases hv : (s.M k).valid <;> cases hod : (s.M k).odd <;> simp)

/-- Every command is its checks around an effect of its own. -/
theorem exec_command (i : Instr) : ∃ f : State → State, ∀ s, exec i s = command i f s := by
  cases i <;> exact ⟨_, fun _ => rfl⟩

/-- Every command answers a next state: no command stops the machine. -/
theorem exec_next (i : Instr) (s : State) : ∃ t, exec i s = .next t := by
  obtain ⟨f, hf⟩ := exec_command i
  rw [hf]
  exact (command_cases i f s).elim (fun h => ⟨_, h.2⟩) (fun h => ⟨_, h.2⟩)

/-- A command a check rejects is its fault record and nothing else, whatever the command (60_exceptions R604). -/
theorem exec_fault {i : Instr} {s : State} (h : check i s ≠ .noFault) : exec i s = .next (s.abandon i (check i s)) := by
  obtain ⟨f, hf⟩ := exec_command i
  rw [hf, command_fault h]

/-! The port. -/

/-- A read changes at most the fault record, the answer and the draw counter (20_memory R210). -/
theorem State.hostRead_cases (s : State) (addr : Addr) :
    (∃ v n, s.hostRead addr = (s.answer v).drawn n) ∨ s.hostRead addr = (s.raiseFault .align (busAddr addr) 0).answer 0 := by
  unfold State.hostRead
  split
  · refine .inl ?_
    unfold State.readTarget
    split
    · exact ⟨_, 1, rfl⟩
    · split
      · exact ⟨_, 3, rfl⟩
      · exact ⟨s.peek (portTarget addr), 0, rfl⟩
  · exact .inr rfl

/-- A write the engine owns is the BUSY fault while BUSY = 1, else the store (20_memory R222). -/
theorem State.guardBusy_cases (s : State) (addr : Addr) (v : Word) (store : State) :
    (s.busy = true ∧ s.guardBusy addr v store = s.raiseFault .busy (busAddr addr) v) ∨
    (s.busy = false ∧ s.guardBusy addr v store = store) := by
  unfold State.guardBusy
  cases s.busy <;> simp

/-- A CMD write stores LASTCMD and then is ignored, faulted or issued (60_exceptions R601). -/
theorem State.writeCmd_cases (s : State) (v : Word) :
    (s.fault = true ∧ s.writeCmd v = { s with lastCmd := v }) ∨
    (s.fault = false ∧ s.busy = true ∧ s.writeCmd v = ({ s with lastCmd := v } : State).raiseFault .busy cmdAddr v) ∨
    (s.fault = false ∧ s.busy = false ∧ s.checkWord v ≠ .noFault ∧
      s.writeCmd v = ({ s with lastCmd := v } : State).raiseFault (s.checkWord v) cmdAddr v) ∨
    (s.fault = false ∧ s.busy = false ∧ s.checkWord v = .noFault ∧
      s.writeCmd v = ({ s with lastCmd := v } : State).latch v) := by
  unfold State.writeCmd
  cases s.fault <;> cases s.busy <;> by_cases h : s.checkWord v = .noFault <;> simp [h]

/-! The transition. -/

/-- What one step is: the reset held, the engine's step when no move is left, or the environment's next move
(20_memory R223; 60_exceptions R611). -/
theorem step_cases (s : State) :
    (s.rstIn = true ∧ s.events = [] ∧ step s = .next s.resetBlock) ∨
    (s.rstIn = false ∧ s.events = [] ∧ step s = engineStep s) ∨
    (∃ e rest, s.rstIn = true ∧ s.events = e :: rest ∧ step s = .next (({ s with events := rest } : State).heldInReset e)) ∨
    (∃ e rest, s.rstIn = false ∧ s.events = e :: rest ∧ step s = liveEvent { s with events := rest } e) := by
  unfold step transition
  cases hr : s.rstIn <;> cases he : s.events <;> simp

/-- The engine's step: nothing while idle, else the pending command (60_exceptions R611). -/
theorem engineStep_cases (s : State) :
    (s.busy = false ∧ engineStep s = .next s) ∨
    (s.busy = true ∧ ∃ i, decodeCommand s.pend = .ok i ∧ engineStep s = exec i s) ∨
    (s.busy = true ∧ (∃ e, decodeCommand s.pend = .error e) ∧ engineStep s = .fault .illegalPend) := by
  unfold engineStep
  cases hb : s.busy <;> cases hd : decodeCommand s.pend <;> simp

end Sys2Proof.Machine
end

