-- ==== Sys2Proof/Laws/Exec.lean ====
section
/-! SUPPORT. One lemma per command: when no check faults it, executing it is its effect on the state, completed. Cite these instead of unfolding exec. -/

namespace Sys2Proof.Machine

open Sys2Proof.Config

variable {s : State}

theorem execModload_ok (k : SlotIx) (a : NatIx) (h : check (.modload k a) s = .noFault) :
    exec (.modload k a) s = .next (State.complete (
    let v := (s.N a).val
    if v ≤ 1 then { s.setSlot k Slot.empty with okf := false }
    else { s.setSlot k (Slot.load v) with okf := true })) :=
  by
  unfold exec execModload
  exact command_ok h _

theorem execExpand_ok (d : NatIx) (k : SlotIx) (h : check (.expand d k) s = .noFault) :
    exec (.expand d k) s = .next (State.complete (
    s.writeNat d (s.N d).val (s.M k).len)) :=
  by
  unfold exec execExpand
  exact command_ok h _

theorem execMov_ok (d a : NatIx) (h : check (.mov d a) s = .noFault) :
    exec (.mov d a) s = .next (State.complete (
    s.writeNat d (s.N a).val (s.N a).len)) :=
  by
  unfold exec execMov
  exact command_ok h _

theorem execAddc_ok (d a b : NatIx) (h : check (.addc d a b) s = .noFault) :
    exec (.addc d a b) s = .next (State.complete (
    let r := addWords (s.N a).words (s.N b).words false
    { s.writeNat d (wordsVal r.1) (s.N a).len with carry := r.2 })) :=
  by
  unfold exec execAddc
  exact command_ok h _

theorem execSubb_ok (d a b : NatIx) (h : check (.subb d a b) s = .noFault) :
    exec (.subb d a b) s = .next (State.complete (
    let r := subWords (s.N a).words (s.N b).words false
    { s.writeNat d (wordsVal r.1) (s.N a).len with carry := r.2 })) :=
  by
  unfold exec execSubb
  exact command_ok h _

theorem execModadd_ok (d a b : NatIx) (k : SlotIx) (h : check (.modadd d a b k) s = .noFault) :
    exec (.modadd d a b k) s = .next (State.complete (
    s.writeResidue (s.reduced a k && s.reduced b k) d k (modaddValue (s.N a).words (s.N b).words (s.M k).words))) :=
  by
  unfold exec execModadd
  exact command_ok h _

theorem execModsub_ok (d a b : NatIx) (k : SlotIx) (h : check (.modsub d a b k) s = .noFault) :
    exec (.modsub d a b k) s = .next (State.complete (
    s.writeResidue (s.reduced a k && s.reduced b k) d k (modsubValue (s.N a).words (s.N b).words (s.M k).words))) :=
  by
  unfold exec execModsub
  exact command_ok h _

theorem execMontmul_ok (d a b : NatIx) (k : SlotIx) (h : check (.montmul d a b k) s = .noFault) :
    exec (.montmul d a b k) s = .next (State.complete (
    s.writeResidue (s.reduced a k && s.reduced b k) d k ((s.M k).mm (s.N a).val (s.N b).val))) :=
  by
  unfold exec execMontmul
  exact command_ok h _

theorem execTomont_ok (d a : NatIx) (k : SlotIx) (h : check (.tomont d a k) s = .noFault) :
    exec (.tomont d a k) s = .next (State.complete (
    s.writeResidue (s.reduced a k) d k ((s.M k).mm (s.N a).val (s.M k).rrval))) :=
  by
  unfold exec execTomont
  exact command_ok h _

theorem execFrommont_ok (d a : NatIx) (k : SlotIx) (h : check (.frommont d a k) s = .noFault) :
    exec (.frommont d a k) s = .next (State.complete (
    s.writeResidue (s.reduced a k) d k ((s.M k).mm (s.N a).val 1))) :=
  by
  unfold exec execFrommont
  exact command_ok h _

theorem execModmul_ok (d a b : NatIx) (k : SlotIx) (h : check (.modmul d a b k) s = .noFault) :
    exec (.modmul d a b k) s = .next (State.complete (
    s.writeResidue (s.reduced a k && s.reduced b k) d k
      ((s.M k).mm ((s.M k).mm (s.N a).val (s.M k).rrval) (s.N b).val))) :=
  by
  unfold exec execModmul
  exact command_ok h _

theorem execModexp_ok (d a b : NatIx) (k : SlotIx) (h : check (.modexp d a b k) s = .noFault) :
    exec (.modexp d a b k) s = .next (State.complete (
    s.writeResidue (s.reduced a k) d k ((s.M k).expResult (s.N a).val (s.exponent b) (8 * s.elen.toNat)))) :=
  by
  unfold exec execModexp
  exact command_ok h _

theorem execModexps_ok (d a : NatIx) (k : SlotIx) (h : check (.modexps d a k) s = .noFault) :
    exec (.modexps d a k) s = .next (State.complete (
    s.writeResidue (s.reduced a k) d k ((s.M k).expShortResult (s.N a).val s.eshort.toNat))) :=
  by
  unfold exec execModexps
  exact command_ok h _

theorem execSelect_ok (d : NatIx) (k : ChoiceIx) (a b : NatIx) (h : check (.select d k a b) s = .noFault) :
    exec (.select d k a b) s = .next (State.complete (
    s.writeNat d (wordsVal (blendWords (s.C k) (s.N a).words (s.N b).words)) (s.N a).len)) :=
  by
  unfold exec execSelect
  exact command_ok h _

theorem execEqual_ok (k : ChoiceIx) (a b : NatIx) (h : check (.equal k a b) s = .noFault) :
    exec (.equal k a b) s = .next (State.complete (
    s.setChoice k (choiceOf (diffWords (s.N a).words (s.N b).words == 0)))) :=
  by
  unfold exec execEqual
  exact command_ok h _

theorem execIszero_ok (k : ChoiceIx) (a : NatIx) (h : check (.iszero k a) s = .noFault) :
    exec (.iszero k a) s = .next (State.complete (
    s.setChoice k (choiceOf ((s.N a).val == 0)))) :=
  by
  unfold exec execIszero
  exact command_ok h _

theorem execIsone_ok (k : ChoiceIx) (a : NatIx) (h : check (.isone k a) s = .noFault) :
    exec (.isone k a) s = .next (State.complete (
    s.setChoice k (choiceOf ((s.N a).val == 1)))) :=
  by
  unfold exec execIsone
  exact command_ok h _

theorem execIsminusone_ok (k : ChoiceIx) (a : NatIx) (m : SlotIx) (h : check (.isminusone k a m) s = .noFault) :
    exec (.isminusone k a m) s = .next (State.complete (
    s.setChoice k (choiceOf ((s.N a).val + 1 == (s.M m).mval)))) :=
  by
  unfold exec execIsminusone
  exact command_ok h _

theorem execIsodd_ok (k : ChoiceIx) (a : NatIx) (h : check (.isodd k a) s = .noFault) :
    exec (.isodd k a) s = .next (State.complete (
    s.setChoice k (choiceOf ((s.N a).val % 2 == 1)))) :=
  by
  unfold exec execIsodd
  exact command_ok h _

theorem execCand_ok (k ka kb : ChoiceIx) (h : check (.cand k ka kb) s = .noFault) :
    exec (.cand k ka kb) s = .next (State.complete (
    s.setChoice k (s.C ka &&& s.C kb))) :=
  by
  unfold exec execCand
  exact command_ok h _

theorem execCor_ok (k ka kb : ChoiceIx) (h : check (.cor k ka kb) s = .noFault) :
    exec (.cor k ka kb) s = .next (State.complete (
    s.setChoice k (s.C ka ||| s.C kb))) :=
  by
  unfold exec execCor
  exact command_ok h _

theorem execModinv_ok (d a : NatIx) (k : SlotIx) (h : check (.modinv d a k) s = .noFault) :
    exec (.modinv d a k) s = .next (State.complete (
    let x := (s.N a).val
    let m := (s.M k).mval
    if s.reduced a k then
      if Nat.gcd x m = 1 then { s.writeNat d (inv x m) (s.M k).len with okf := true } else { s with okf := false }
    else
      let t := s.drawNat d (s.M k).len
      { t.drawn 1 with okf := t.nextDraw 1 == 1 })) :=
  by
  unfold exec execModinv
  exact command_ok h _

theorem execGcd_ok (d a b : NatIx) (h : check (.gcd d a b) s = .noFault) :
    exec (.gcd d a b) s = .next (State.complete (
    let x := (s.N a).val
    let y := (s.N b).val
    if x = 0 ∨ y = 0 ∨ (x % 2 = 0 ∧ y % 2 = 0) then { s with okf := false }
    else { s.writeNat d (Nat.gcd x y) (s.N b).len with okf := true })) :=
  by
  unfold exec execGcd
  exact command_ok h _

end Sys2Proof.Machine
end

