-- ==== Sys2Proof/Laws/Flags.lean ====
section
/-! SUPPORT. The bits of the STATUS, CTRL and MINFO words, one lemma per word of Machine/Flags.lean. -/

namespace Sys2Proof.Machine

open Sys2Proof.Config

/-- Every bit of a STATUS word (10_state R129). -/
theorem State.statusLayout_getLsbD (s : State) (o c : BitVec 1) (ch : BitVec 4) (j : Nat) :
    (s.statusLayout o c ch).getLsbD j = 
  (if j = 0 then s.busy else if j = 1 then s.done else if j = 2 then s.fault else if j = 3 then o.getLsbD 0 else if j = 4 then c.getLsbD 0
   else if 8 ≤ j ∧ j < 12 then ch.getLsbD (j-8) else if 16 ≤ j ∧ j < 24 then s.faultCode.code.getLsbD (j-16) else false) := by
  unfold State.statusLayout
  by_cases h : j < 24
  · have : j = 0 ∨ j = 1 ∨ j = 2 ∨ j = 3 ∨ j = 4 ∨ j = 5 ∨ j = 6 ∨ j = 7 ∨ j = 8 ∨ j = 9 ∨ j = 10 ∨ j = 11 ∨ j = 12 ∨ j = 13 ∨ j = 14 ∨ j = 15 ∨ j = 16 ∨ j = 17 ∨ j = 18 ∨ j = 19 ∨ j = 20 ∨ j = 21 ∨ j = 22 ∨ j = 23 := by omega
    rcases this with rfl | rfl | rfl | rfl | rfl | rfl | rfl | rfl | rfl | rfl | rfl | rfl | rfl | rfl | rfl | rfl | rfl | rfl | rfl | rfl | rfl | rfl | rfl | rfl <;> (repeat rw [BitVec.getLsbD_append]) <;> simp [-BitVec.getLsbD_eq_getElem]
  · repeat rw [BitVec.getLsbD_append]
    rw [if_neg (show ¬ j < 1 by omega), if_neg (show ¬ j - 1 < 1 by omega), if_neg (show ¬ j - 1 - 1 < 1 by omega),
      if_neg (show ¬ j - 1 - 1 - 1 < 1 by omega), if_neg (show ¬ j - 1 - 1 - 1 - 1 < 1 by omega),
      if_neg (show ¬ j - 1 - 1 - 1 - 1 - 1 < 3 by omega), if_neg (show ¬ j - 1 - 1 - 1 - 1 - 1 - 3 < 4 by omega),
      if_neg (show ¬ j - 1 - 1 - 1 - 1 - 1 - 3 - 4 < 4 by omega), if_neg (show ¬ j - 1 - 1 - 1 - 1 - 1 - 3 - 4 - 4 < 8 by omega)]
    rw [if_neg (by omega), if_neg (by omega), if_neg (by omega), if_neg (by omega), if_neg (by omega), if_neg (by omega), if_neg (by omega)]
    simp

/-- Every bit of the CTRL word (10_state R126). -/
theorem State.ctrlWord_getLsbD (s : State) (j : Nat) : s.ctrlWord.getLsbD j = (if j = 1 then s.doneie else if j = 2 then s.faultie else false) := by
  unfold State.ctrlWord
  repeat rw [BitVec.getLsbD_append]
  by_cases h0 : j = 0
  · subst h0; simp
  by_cases h1 : j = 1
  · subst h1; simp
  by_cases h2 : j = 2
  · subst h2; simp
  rw [if_neg (show ¬ j < 1 by omega), if_neg (show ¬ j -1 < 1 by omega), if_neg (show ¬ j - 1 - 1< 1 by omega)]
  simp [h1, h2]

/-- Every bit of a MINFO word (10_state R134). -/
theorem Slot.info_getLsbD (m : Slot) (j : Nat) : m.info.getLsbD j = (if j = 0 then m.valid else if j = 1 then m.odd else if j < 8 then false
    else if j < 16 then (BitVec.ofNat 8 m.len).getLsbD (j-8) else if j < 32 then (BitVec.ofNat 16 m.bits).getLsbD (j-16) else false) := by
  unfold Slot.info
  repeat rw [BitVec.getLsbD_append]
  rcases Nat.lt_or_ge j 1 with h | h
  · obtain rfl : j = 0 := by omega
    simp
  rw [if_neg (show ¬ j < 1 by omega), if_neg (show ¬ j = 0 by omega)]
  rcases Nat.lt_or_ge j 2 with h | h
  · obtain rfl : j = 1 := by omega
    simp
  rw [if_neg (show ¬ j - 1 < 1 by omega), if_neg (show ¬ j = 1 by omega)]
  rcases Nat.lt_or_ge j 8 with h | h
  · rw [if_pos (show j - 1 - 1 < 6 by omega), if_pos h]; simp
  rw [if_neg (show ¬ j - 1 - 1 < 6 by omega), if_neg (show ¬ j < 8 by omega)]
  rcases Nat.lt_or_ge j 16 with h | h
  · rw [if_pos (show j - 1 - 1 - 6 < 8 by omega), if_pos h]
    rw [show j - 1 - 1 - 6 = j - 8 by omega]
  rw [if_neg (show ¬ j - 1 - 1 - 6 < 8 by omega), if_neg (show ¬ j < 16 by omega)]
  rcases Nat.lt_or_ge j 32 with h | h
  · rw [if_pos (show j - 1 - 1 - 6 - 8 < 16 by omega), if_pos h]
    rw [show j - 1 - 1 - 6 - 8 = j - 16 by omega]
  rw [if_neg (show ¬ j - 1 - 1 - 6 - 8 < 16 by omega), if_neg (show ¬ j < 32 by omega)]; simp

end Sys2Proof.Machine
end

