-- ==== Sys2Proof/Laws/PerInstr.lean ====
section
/-! SUPPORT. The statements made instruction by instruction: the family FieldsLegal says that a command's encoded fields pass every check of 30_encoding R307. -/

namespace Sys2Proof.Laws.FieldsLegal

/-- The fields a command is encoded with are legal: RSV clear, opcode listed, unused fields clear. -/
def Statement (i : Instr) : Prop := i.wellFormed = true

theorem modload (s : SlotIx) (a : NatIx) : Statement (.modload s a) := rfl

theorem expand (d : NatIx) (s : SlotIx) : Statement (.expand d s) := rfl

theorem mov (d a : NatIx) : Statement (.mov d a) := rfl

theorem addc (d a b : NatIx) : Statement (.addc d a b) := rfl

theorem subb (d a b : NatIx) : Statement (.subb d a b) := rfl

theorem modadd (d a b : NatIx) (s : SlotIx) : Statement (.modadd d a b s) := rfl

theorem modsub (d a b : NatIx) (s : SlotIx) : Statement (.modsub d a b s) := rfl

theorem montmul (d a b : NatIx) (s : SlotIx) : Statement (.montmul d a b s) := rfl

theorem tomont (d a : NatIx) (s : SlotIx) : Statement (.tomont d a s) := rfl

theorem frommont (d a : NatIx) (s : SlotIx) : Statement (.frommont d a s) := rfl

theorem modmul (d a b : NatIx) (s : SlotIx) : Statement (.modmul d a b s) := rfl

theorem modexp (d a b : NatIx) (s : SlotIx) : Statement (.modexp d a b s) := rfl

theorem modexps (d a : NatIx) (s : SlotIx) : Statement (.modexps d a s) := rfl

theorem select (d : NatIx) (k : ChoiceIx) (a b : NatIx) : Statement (.select d k a b) := rfl

theorem equal (k : ChoiceIx) (a b : NatIx) : Statement (.equal k a b) := rfl

theorem iszero (k : ChoiceIx) (a : NatIx) : Statement (.iszero k a) := rfl

theorem isone (k : ChoiceIx) (a : NatIx) : Statement (.isone k a) := rfl

theorem isminusone (k : ChoiceIx) (a : NatIx) (s : SlotIx) : Statement (.isminusone k a s) := rfl

theorem isodd (k : ChoiceIx) (a : NatIx) : Statement (.isodd k a) := rfl

theorem cand (k ka kb : ChoiceIx) : Statement (.cand k ka kb) := by
  revert k ka kb
  unfold Statement
  decide

theorem cor (k ka kb : ChoiceIx) : Statement (.cor k ka kb) := by
  revert k ka kb
  unfold Statement
  decide

theorem modinv (d a : NatIx) (s : SlotIx) : Statement (.modinv d a s) := rfl

theorem gcd (d a b : NatIx) : Statement (.gcd d a b) := rfl

end Sys2Proof.Laws.FieldsLegal
end

