-- ==== Sys2Proof/Tests/Slice0.lean ====
section
/-! SUPPORT. The model's own tests: ill-formed words refused, each opcode's word decoded, one step per command with the
values of spec/95_test_vectors.md (and of each rule's "Example" line), host accesses, and a witness for the hypotheses of
each statement. -/

namespace Sys2Proof.Tests

open Sys2Proof.Machine Sys2Proof.Config

set_option Elab.async false

/-- What `f` reads in the next state, if there is one. -/
def after {α : Type} (o : Host.Outcome State Fault Refusal) (f : State → α) : Option α :=
  match o with
  | .next t => some (f t)
  | .fault _ => none
  | .refused _ => none

/-- `s` with the `n`-word value `v` in N[r]. -/
def putNat (s : State) (r : NatIx) (n : Len) (v : Nat) : State := s.writeNat r v n

/-- `s` with the modulus `v` in M[k]. -/
def putMod (s : State) (k : SlotIx) (v : Nat) : State := s.setSlot k (Slot.load v)

/-- Reset, then the modulus in m0, and the `n`-word values `x` and `y` in n0 and n1. -/
def modState (m : Nat) (n : Len) (x y : Nat) : State := putNat (putNat (putMod State.reset 0 m) 0 n x) 1 n y

/-- Reset, then the values `x` of `n` words in n0 and `y` of `p` words in n1. -/
def natState (n : Len) (x : Nat) (p : Len) (y : Nat) : State := putNat (putNat State.reset 0 n x) 1 p y

/-- The outcome of the engine's next step with the command word `w` in PEND. -/
def run (s : State) (w : Nat) : Host.Outcome State Fault Refusal := step (s.withFetchWord 32 w)

/-- A register's length and value. -/
def lenVal (s : State) (r : NatIx) : Nat × Nat := ((s.N r).len.val, (s.N r).val)

/-- The ST column of 95_test_vectors. -/
def st (s : State) : Word := s.statusWord

/-- `s` with one event coming. -/
def onEvent (s : State) (e : Event) : State := { s with events := [e] }

/-- m0 = 97, n0 = [10], n1 = [20]: the state most witnesses use. -/
def s97 : State := modState 97 1 10 20

/-- `s97` with a command word pending and the engine's turn next. -/
def busy97 : State := s97.withFetchWord 32 0x00010223

/-- `s97` with a NOMOD fault on record. -/
def faulted97 : State := s97.raiseFault .nomod cmdAddr 0x00410223

/-! ## Well-formedness: an ill-formed term for each check (30_encoding R303, R307) -/

theorem test_wf_reservedClear : Fields.reservedClear ⟨0x01, 0, 0, 0, 0, 0, 1⟩ = false := by decide
theorem test_wf_opcodeListed : Fields.opcodeListed ⟨0x04, 0, 0, 0, 0, 0, 0⟩ = false := by decide
theorem test_wf_unused_rd : Fields.unusedClear ⟨0x01, 1, 0, 0, 0, 0, 0⟩ = false := by decide
theorem test_wf_unused_ra : Fields.unusedClear ⟨0x02, 0, 1, 0, 0, 0, 0⟩ = false := by decide
theorem test_wf_unused_rb : Fields.unusedClear ⟨0x03, 0, 0, 1, 0, 0, 0⟩ = false := by decide
theorem test_wf_unused_cs : Fields.unusedClear ⟨0x20, 0, 0, 0, 1, 0, 0⟩ = false := by decide
theorem test_wf_unused_ms : Fields.unusedClear ⟨0x10, 0, 0, 0, 0, 1, 0⟩ = false := by decide
theorem test_wf_cand_ra4 : Fields.unusedClear ⟨0x46, 0, 4, 0, 0, 0, 0⟩ = false := by decide
theorem test_wf_cor_rb4 : Fields.unusedClear ⟨0x47, 0, 0, 4, 0, 0, 0⟩ = false := by decide
theorem test_wf_accepts : Fields.wellFormed ⟨0x46, 0, 3, 3, 3, 0, 0⟩ = true := by decide

/-! ## Illegal words (95_test_vectors, "Encoding and command faults") -/

theorem test_decode_zero : decode 0x00000000 = .error .unlistedOpcode := by decide
theorem test_decode_unlisted : decode 0x00000004 = .error .unlistedOpcode := by decide
theorem test_decode_rsv : decode 0x00800001 = .error .reservedField := by decide
theorem test_decode_modload_rd : decode 0x00000101 = .error .unusedField := by decide
theorem test_decode_cand_ra4 : decode 0x00004046 = .error .unusedField := by decide
theorem test_decode_bit32 : decode 0x0000000100000001 = .error .highBits := by decide
theorem test_decode_montmul_cs : decode 0x00110220 = .error .unusedField := by decide

/-! ## One word per opcode, from the fields of 30_encoding R302, R303 and the rules' "Example" lines -/
theorem test_decode_modload : decode 0x00000001 = .ok (.modload 0 0) := by decide
theorem test_decode_modload_all : decode 0x0040F001 = .ok (.modload 1 15) := by decide
theorem test_decode_expand : decode 0x00000102 = .ok (.expand 1 0) := by decide
theorem test_decode_mov : decode 0x00003403 = .ok (.mov 4 3) := by decide
theorem test_decode_addc : decode 0x00010210 = .ok (.addc 2 0 1) := by decide
theorem test_decode_subb : decode 0x00010211 = .ok (.subb 2 0 1) := by decide
theorem test_decode_modadd : decode 0x00010212 = .ok (.modadd 2 0 1 0) := by decide
theorem test_decode_modsub : decode 0x00010213 = .ok (.modsub 2 0 1 0) := by decide
theorem test_decode_montmul : decode 0x00054620 = .ok (.montmul 6 4 5 0) := by decide
theorem test_decode_tomont : decode 0x00001421 = .ok (.tomont 4 1 0) := by decide
theorem test_decode_frommont : decode 0x00002322 = .ok (.frommont 3 2 0) := by decide
theorem test_decode_modmul : decode 0x00410223 = .ok (.modmul 2 0 1 1) := by decide
theorem test_decode_modexp : decode 0x00010230 = .ok (.modexp 2 0 1 0) := by decide
theorem test_decode_modexps : decode 0x00000131 = .ok (.modexps 1 0 0) := by decide
theorem test_decode_select : decode 0x00110240 = .ok (.select 2 1 0 1) := by decide
theorem test_decode_equal : decode 0x00073041 = .ok (.equal 0 3 7) := by decide
theorem test_decode_iszero : decode 0x00200042 = .ok (.iszero 2 0) := by decide
theorem test_decode_isone : decode 0x00000043 = .ok (.isone 0 0) := by decide
theorem test_decode_isminusone : decode 0x00100044 = .ok (.isminusone 1 0 0) := by decide
theorem test_decode_isodd : decode 0x00300045 = .ok (.isodd 3 0) := by decide
theorem test_decode_cand : decode 0x00321046 = .ok (.cand 3 1 2) := by decide
theorem test_decode_cor : decode 0x00321047 = .ok (.cor 3 1 2) := by decide
theorem test_decode_modinv : decode 0x00000150 = .ok (.modinv 1 0 0) := by decide
theorem test_decode_gcd : decode 0x00010251 = .ok (.gcd 2 0 1) := by decide

/-- The three example words of 30_encoding R312, encoded. -/
theorem test_encode_examples : encode (.modmul 2 0 1 0) = 0x00010223 ∧ encode (.modmul 2 0 1 1) = 0x00410223 ∧
    encode (.cand 3 1 2) = 0x00321046 := by decide

theorem test_decodeTableWord : decodeTableWord 32 0x00321046 = some (.cand 3 1 2) := by decide

/-! ## One step per command (95_test_vectors L2) -/
theorem test_modload_odd : after (run (natState 3 97 0 0) 0x00000001) (fun t => ((t.M 0).valid, (t.M 0).odd, (t.M 0).len.val, (t.M 0).m0inv, (t.M 0).rrval)) = some (true, true, 1, 0x5C5F02A3A0FD5C5F, 35) ∧
    after (run (natState 2 0x1000000000000000D 0 0) 0x00000001) (fun t => ((t.M 0).len.val, (t.M 0).bits, (t.M 0).m0inv, (t.M 0).rrval)) = some (2, 65, 0xB13B13B13B13B13B, 0x6F91) := by
  decide +kernel
theorem test_modload_even_and_rejected : after (run (natState 1 3120 0 0) 0x00000001) (fun t => ((t.M 0).info, (t.M 0).m0inv, (t.M 0).rrval, st t)) = some (0x000C0101, 0, 0, 0x0000000A) ∧
    after (run (natState 1 1 0 0) 0x00000001) (fun t => (t.M 0, st t)) = some (Slot.empty, 0x00000002) := by
  decide +kernel
theorem test_expand : after (run (modState 0x1000000000000000D 1 0 5) 0x00000102) (fun t => lenVal t 1) = some (2, 5) := by
  decide +kernel
theorem test_expand_nomod : after (run State.reset 0x00000102) (st) = some 0x00020004 := by
  decide +kernel
theorem test_mov : after (run (putNat State.reset 3 2 0x90000000000000007) 0x00003403) (fun t => lenVal t 4) = some (2, 0x90000000000000007) := by
  decide +kernel
theorem test_addc_carry : after (run (natState 1 0xFFFFFFFFFFFFFFFF 1 1) 0x00010210) (fun t => (lenVal t 2, st t)) = some ((1, 0), 0x00000012) := by
  decide +kernel
theorem test_addc_ripple : after (run (natState 2 0x1FFFFFFFFFFFFFFFF 2 1) 0x00010210) (fun t => (lenVal t 2, st t)) = some ((2, 0x20000000000000000), 0x00000002) := by
  decide +kernel
theorem test_subb_borrow : after (run (natState 1 0 1 1) 0x00010211) (fun t => (lenVal t 2, st t)) = some ((1, 0xFFFFFFFFFFFFFFFF), 0x00000012) := by
  decide +kernel
theorem test_subb_ripple : after (run (natState 2 0x10000000000000000 2 1) 0x00010211) (fun t => (lenVal t 2, st t)) = some ((2, 0xFFFFFFFFFFFFFFFF), 0x00000002) := by
  decide +kernel
theorem test_modadd_carry_out : after (run (modState 0xFFFFFFFFFFFFFFC5 1 0xFFFFFFFFFFFFFFC4 0xFFFFFFFFFFFFFFC4) 0x00010212) (fun t => lenVal t 2) = some (1, 0xFFFFFFFFFFFFFFC3) := by
  decide +kernel
theorem test_modadd_even_and_alias : after (run (modState 10 1 7 8) 0x00010212) (fun t => lenVal t 2) = some (1, 5) ∧
    after (run (modState 97 1 50 60) 0x00010012) (fun t => lenVal t 0) = some (1, 13) := by
  decide +kernel
theorem test_modsub_wraps : after (run (modState 97 1 1 2) 0x00010213) (fun t => lenVal t 2) = some (1, 96) := by
  decide +kernel
theorem test_modsub_two_words : after (run (modState 0x1000000000000000D 2 0 1) 0x00010213) (fun t => lenVal t 2) = some (2, 0x1000000000000000C) := by
  decide +kernel
theorem test_montmul : after (run s97 0x00010220) (fun t => lenVal t 2) = some (1, 16) := by
  decide +kernel
theorem test_montmul_even : after (run (modState 10 2 0 0) 0x00010220) (st) = some 0x00030004 := by
  decide +kernel
theorem test_tomont : after (run s97 0x00000121) (fun t => lenVal t 1) = some (1, 28) := by
  decide +kernel
theorem test_tomont_two_words : after (run (modState 0x1000000000000000D 2 0xFFFFFFFFFFFFFFFF 0) 0x00000121) (fun t => lenVal t 1) = some (2, 0xFFFFFFFFFFFFF6CF) := by
  decide +kernel
theorem test_frommont : after (run (putNat s97 2 1 75) 0x00002322) (fun t => lenVal t 3) = some (1, 6) := by
  decide +kernel
theorem test_frommont_96 : after (run (modState 97 1 96 0) 0x00000122) (fun t => lenVal t 1) = some (1, 62) := by
  decide +kernel
theorem test_modmul : after (run s97 0x00010223) (fun t => lenVal t 2) = some (1, 6) := by
  decide +kernel
theorem test_modmul_two_words : after (run (modState 0x1000000000000000D 2 0xFFFFFFFFFFFFFFFF 0xFFFFFFFFFFFFFFFF) 0x00010223) (fun t => lenVal t 2) = some (2, 0xC4) := by
  decide +kernel
theorem test_modexp : after (run { modState 97 1 2 0x10A with elen := 1 } 0x00010230) (fun t => lenVal t 2) = some (1, 54) := by
  decide +kernel
theorem test_modexp_explen : after (run { modState 97 1 2 5 with elen := 9 } 0x00010230) (st) = some 0x00050004 := by
  decide +kernel
theorem test_modexps : after (run { modState 97 1 2 0 with eshort := 10 } 0x00000131) (fun t => lenVal t 1) = some (1, 54) := by
  decide +kernel
theorem test_modexps_ones : after (run { modState 97 1 3 0 with eshort := ones } 0x00000131) (fun t => lenVal t 1) = some (1, 85) := by
  decide +kernel
theorem test_select_true : after (run ((natState 2 0x10000000000000005 2 0x20000000000000009).setChoice 1 ones) 0x00110240) (fun t => lenVal t 2) = some (2, 0x10000000000000005) := by
  decide +kernel
theorem test_select_false : after (run (natState 2 0x10000000000000005 2 0x20000000000000009) 0x00010240) (fun t => lenVal t 2) = some (2, 0x20000000000000009) := by
  decide +kernel
theorem test_equal : after (run (natState 1 5 1 5) 0x00010041) (fun t => t.C 0) = some ones := by
  decide +kernel
theorem test_equal_size : after (run (natState 1 5 2 5) 0x00010041) (st) = some 0x00040004 := by
  decide +kernel
theorem test_iszero_len0 : after (run State.reset 0x00200042) (fun t => t.C 2) = some ones := by
  decide +kernel
theorem test_iszero_high_word : after (run (natState 2 0x10000000000000000 0 0) 0x00200042) (fun t => t.C 2) = some 0 := by
  decide +kernel
theorem test_isone : after (run (natState 2 1 0 0) 0x00000043) (fun t => t.C 0) = some ones := by
  decide +kernel
theorem test_isone_high_word : after (run (natState 2 0x10000000000000001 0 0) 0x00000043) (fun t => t.C 0) = some 0 := by
  decide +kernel
theorem test_isminusone : after (run (modState 97 1 96 0) 0x00100044) (fun t => t.C 1) = some ones := by
  decide +kernel
theorem test_isminusone_no : after (run (modState 97 1 95 0) 0x00100044) (fun t => t.C 1) = some 0 := by
  decide +kernel
theorem test_isodd : after (run (natState 1 3 0 0) 0x00300045) (fun t => t.C 3) = some ones := by
  decide +kernel
theorem test_isodd_len0 : after (run State.reset 0x00300045) (fun t => t.C 3) = some 0 := by
  decide +kernel
theorem test_cand : after (run (State.reset.setChoice 1 ones) 0x00321046) (fun t => t.C 3) = some 0 := by
  decide +kernel
theorem test_cand_ch_bits : after (run ((State.reset.setChoice 1 ones).setChoice 3 ones) 0x00031046) (fun t => (t.C 0, (st t).extractLsb' 8 4)) = some (ones, 0b1011) := by
  decide +kernel
theorem test_cor : after (run (State.reset.setChoice 1 ones) 0x00321047) (fun t => t.C 3) = some ones := by
  decide +kernel
theorem test_modinv : after (run (modState 97 1 3 0x77) 0x00000150) (fun t => (lenVal t 1, t.okf)) = some ((1, 65), true) := by
  decide +kernel
theorem test_modinv_no_inverse : after (run (modState 3120 1 12 0x77) 0x00000150) (fun t => (lenVal t 1, t.okf)) = some ((1, 0x77), false) := by
  decide +kernel
theorem test_gcd : after (run (natState 2 0x5FFFFFFFFFFFFFFFF 1 15) 0x00010251) (fun t => (lenVal t 2, t.okf)) = some ((1, 5), true) := by
  decide +kernel
theorem test_gcd_even_even : after (run (putNat (natState 1 12 1 18) 2 1 0xEE) 0x00010251) (fun t => (lenVal t 2, t.okf)) = some ((1, 0xEE), false) := by
  decide +kernel

/-! ## Host accesses (95_test_vectors, "Host accesses") -/

theorem test_write_misaligned : after (step (onEvent State.reset (.write 0x0C 5))) (fun t => (t.faultAddr, t.faultData, st t)) = some (0xC, 5, 0x00120004) := by decide +kernel
theorem test_read_misaligned : after (step (onEvent State.reset (.read 0x0C))) (fun t => (t.rdata, t.faultCode, t.faultData)) = some (0, .align, 0) := by decide +kernel
theorem test_len_65 : after (step (onEvent State.reset (.write 0x17F8 65))) (fun t => (t.faultCode, t.faultAddr, (t.N 0).len.val)) = some (.badlen, 0x17F8, 0) := by decide +kernel
theorem test_len_64 : after (step (onEvent State.reset (.write 0x17F8 64))) (fun t => (t.fault, (t.N 0).len.val)) = some (false, 64) := by decide +kernel
theorem test_elen_513 : after (step (onEvent State.reset (.write 0x30 513))) (fun t => (t.faultCode, t.elen)) = some (.badlen, 0) := by decide +kernel
theorem test_elen_512 : after (step (onEvent State.reset (.write 0x30 512))) (fun t => (t.fault, t.elen)) = some (false, 512) := by decide +kernel
theorem test_read_reserved : after (step (onEvent State.reset (.read 0x80))) (fun t => (t.rdata, t.fault)) = some (0, false) := by decide +kernel
theorem test_write_id : after (step (onEvent State.reset (.write 0x00 0))) (fun t => (t.fault, t.peek .id)) = some (false, 0x7F404001) := by decide +kernel
theorem test_write_slot_word : after (step (onEvent s97 (.write 0xA000 5))) (fun t => (t.fault, (t.M 0).mval)) = some (false, 97) := by decide +kernel
theorem test_busy_write : after (step (onEvent { s97 with busy := true } (.write 0x1000 5))) (fun t => (t.faultCode, t.faultAddr, t.faultData, (t.N 0).val)) = some (.busy, 0x1000, 5, 10) := by decide +kernel
theorem test_busy_then_completes : after (step { busy97.raiseFault .busy 0x1000 5 with events := [] }) (fun t => (lenVal t 2, t.faultCode, t.busy)) = some ((1, 6), .busy, false) := by decide +kernel
theorem test_irq_done : after (step (onEvent { s97 with doneie := true, done := true } (.write 0x10 2))) (fun t => (t.done, t.irq)) = some (false, false) := by decide +kernel
theorem test_ctrl_enables : after (step (onEvent s97 (.write 0x08 6))) (fun t => (t.ctrlWord, (t.N 0).val)) = some (6, 10) := by decide +kernel
theorem test_issue : after (step (onEvent s97 (.write 0x18 0x00010223))) (fun t => (t.pend, t.busy, t.lastCmd)) = some (0x00010223, true, 0x00010223) := by decide +kernel
theorem test_issue_after_fault : after (step (onEvent faulted97 (.write 0x18 0x00010223))) (fun t => (t.lastCmd, t.busy, t.faultData)) = some (0x00010223, false, 0x00410223) := by decide +kernel

/-- SRST resets every piece of the block's state, the command in PEND with it (10_state R126; 70 R702). -/
theorem test_soft_reset : after (step (onEvent busy97 (.write 0x08 7))) id = some State.reset := by decide +kernel

/-- The hard reset, on the rise of `rst` (70_reset_and_hazards R701). -/
theorem test_hard_reset : after (step (onEvent faulted97 (.rst true))) (fun t => (t.statusWord, t.irq, (t.M 0).valid)) =
    some (0, false, false) := by decide +kernel

/-- What a read while BUSY = 1 returns is a draw: one is counted, nothing else of the block changes. -/
theorem test_busy_read : after (step (onEvent busy97 (.read 0x1000))) (fun t => (t.draws, t.busy, t.fault)) =
    some (1, true, false) := by decide +kernel

/-- The map of 20_memory R202 where its ranges meet. -/
theorem test_map_edges : [0x0F, 0x10, 0x1FF, 0x200, 0x23F, 0x240, 0x2FE, 0x2FF, 0x11FF].map targetOf =
    [.choice 3, .reserved, .reserved, .natWord 0 0, .natWord 0 63, .reserved, .reserved, .natLen 0, .natLen 15] := by
  decide +kernel

theorem test_map_edges_slots : [0x1200, 0x13FF, 0x1400, 0x143F, 0x1440, 0x14FF, 0x1500, 0x153F, 0x1540, 0x15FF, 0x1600,
      0x173F, 0x1740, 0x17FF, 0x1800, 0x1FFF].map targetOf =
    [.reserved, .reserved, .modWord 0 0, .modWord 0 63, .reserved, .reserved, .rrWord 0 0, .rrWord 0 63, .reserved,
      .reserved, .modWord 1 0, .rrWord 1 63, .reserved, .reserved, .reserved, .reserved] := by decide +kernel

/-- The register addresses of 95_test_vectors L3. -/
theorem test_addresses : [Target.ctrl, .status, .cmd, .faultData, .faultAddr, .elen, .eshort, .minfo 0, .m0inv 1,
      .natWord 1 2, .natLen 1, .rrWord 1 3].map addrOf =
    [0x08, 0x10, 0x18, 0x20, 0x28, 0x30, 0x38, 0x40, 0x58, 0x1810, 0x1FF8, 0xB818] := by decide +kernel

/-! ## Witnesses: the hypotheses of each statement, met (each clause, at a boundary value of its range) -/

theorem witness_EncodeInvertsDecode : decode 0x00010223 = .ok (.modmul 2 0 1 0) := by decide

theorem witness_OpcodeRowsMatchTheDecoder : (⟨"CAND", 0x00000046, 0xFFCCCFFF⟩ : OpcodeRow) ∈ opcodeTable ∧
    (0x00321046#32 &&& 0xFFCCCFFF#32) = 0x00000046#32 := by decide

theorem witness_StepExecutesPendingCommand_turn : busy97.rstIn = false ∧ busy97.busy = true ∧
    decodeCommand busy97.pend = .ok (.modmul 2 0 1 0) ∧ busy97.events = .engine :: [] := by decide +kernel

theorem witness_StepExecutesPendingCommand_last : ({ busy97 with events := [] } : State).busy = true ∧
    decodeCommand ({ busy97 with events := [] } : State).pend = .ok (.modmul 2 0 1 0) ∧
    decodeTableWord 32 0x00010223 = some (.modmul 2 0 1 0) := by decide +kernel

/-- Each move with `rst` low: of the host, idle and busy; the engine's turn and no move left while idle. -/
theorem witness_StepExecutesPendingCommand_moves : (onEvent s97 (.read 0x1000)).rstIn = false ∧
    (onEvent busy97 (.write 0x1000 5)).rstIn = false ∧ (onEvent s97 (.rst false)).events = .rst false :: [] ∧
    (onEvent s97 .engine).busy = false ∧ (onEvent s97 .engine).rstIn = false ∧ s97.events = [] ∧
    after (step (onEvent s97 .engine)) id = some s97 ∧ after (step s97) id = some s97 ∧
    after (step (onEvent s97 (.read 0x1000))) (fun t => t.rdata) = some 10 := by decide +kernel

theorem witness_CmdWriteIssuesOrIsTurnedAway : faulted97.fault = true ∧ busy97.fault = false ∧ busy97.busy = true ∧
    s97.fault = false ∧ s97.busy = false ∧ decode 0 = .error .unlistedOpcode ∧
    decode 0x00410223 = .ok (.modmul 2 0 1 1) ∧ check (.modmul 2 0 1 1) s97 ≠ .noFault ∧
    decode 0x00010223 = .ok (.modmul 2 0 1 0) ∧ check (.modmul 2 0 1 0) s97 = .noFault := by decide +kernel

theorem witness_IllegalWordFaultsIllegal : s97.fault = false ∧ s97.busy = false ∧
    (0x0000000100000001 : Word).extractLsb' 32 32 ≠ 0 ∧
    (Fields.unpack ((0x00800001 : Word).extractLsb' 0 32)).reservedClear = false ∧
    (Fields.unpack ((0x00000004 : Word).extractLsb' 0 32)).opcodeListed = false ∧
    (Fields.unpack ((0x00000101 : Word).extractLsb' 0 32)).unusedClear = false ∧
    (0xFF00 : Word).extractLsb' 0 8 = 0 := by decide +kernel

theorem witness_ChecksReportTheFirstViolation : check (.modmul 2 0 1 1) s97 = .nomod ∧
    check (.modmul 2 0 1 0) (modState 10 2 0 0) = .even ∧ check (.modmul 2 0 1 0) (modState 97 2 1 1) = .size ∧
    check (.modexp 2 0 1 0) { s97 with elen := 9 } = .explen ∧ check (.modexp 2 0 1 0) { s97 with elen := 8 } = .noFault ∧
    decode 0 = .error .unlistedOpcode ∧ decode 0x00010223 = .ok (.modmul 2 0 1 0) := by decide +kernel

/-- n0 of one word, n1 of two, against the one-word odd modulus of m0, m1 empty: each command's own slot and lengths. -/
def mixed97 : State := modState 97 2 1 1 |>.writeNat 0 1 1

/-- SIZE where two operands differ in length, none where they agree (42 R421, R422; 45 R483, R484). -/
theorem test_check_two_lengths :
    ([Instr.addc 2 0 1, .subb 2 0 1, .select 2 0 0 1, .equal 0 0 1].map fun i => check i mixed97) =
      [.size, .size, .size, .size] ∧
    ([Instr.addc 2 0 0, .subb 2 1 1, .select 2 0 0 0, .equal 0 1 1].map fun i => check i mixed97) =
      [.noFault, .noFault, .noFault, .noFault] := by decide +kernel

/-- EXPAND: the empty slot, one word too many, the modulus length itself (41_nat_and_modulus R404). -/
theorem test_check_expand : ([Instr.expand 0 1, .expand 1 0, .expand 0 0, .expand 5 0].map fun i => check i mixed97) =
    [.nomod, .size, .noFault, .noFault] := by decide +kernel

/-- One operand at the modulus length: the empty slot first, then SIZE, then none (43 R444, R445; 44 R464; 45 R487; 46 R513). -/
theorem test_check_one_length :
    ([Instr.tomont 2 1 1, .frommont 2 1 1, .modexps 2 1 1, .isminusone 0 1 1, .modinv 2 1 1].map fun i => check i mixed97) =
      [.nomod, .nomod, .nomod, .nomod, .nomod] ∧
    ([Instr.tomont 2 1 0, .frommont 2 1 0, .modexps 2 1 0, .isminusone 0 1 0, .modinv 2 1 0].map fun i => check i mixed97) =
      [.size, .size, .size, .size, .size] ∧
    ([Instr.tomont 2 0 0, .frommont 2 0 0, .modexps 2 0 0, .isminusone 0 0 0, .modinv 2 0 0].map fun i => check i mixed97) =
      [.noFault, .noFault, .noFault, .noFault, .noFault] := by decide +kernel

/-- Either of two operands off the modulus length (42 R423, R424; 43 R443, R446). -/
theorem test_check_either_length :
    ([Instr.modadd 2 0 1 0, .modsub 2 1 0 0, .montmul 2 0 1 0, .modmul 2 1 0 0].map fun i => check i mixed97) =
      [.size, .size, .size, .size] ∧
    ([Instr.modadd 2 0 0 1, .modsub 2 0 0 0, .montmul 2 0 0 0, .modmul 2 0 0 1].map fun i => check i mixed97) =
      [.nomod, .noFault, .noFault, .nomod] := by decide +kernel

/-- An even modulus is no fault to the commands that take either parity (42 R423, R424; 45 R487; 46 R513). -/
theorem test_check_even : ([Instr.modadd 2 0 1 0, .modsub 2 0 1 0, .isminusone 0 0 0, .modinv 2 0 0, .expand 0 0,
      .montmul 2 0 1 0, .modexp 2 0 1 0].map fun i => check i (modState 10 1 0 0)) =
    [.noFault, .noFault, .noFault, .noFault, .noFault, .even, .even] := by decide +kernel

theorem witness_FaultedCommandOnlyRecords : check (.modmul 2 0 1 1) s97 ≠ .noFault ∧ s97.fault = false ∧
    check (.modmul 2 0 1 1) faulted97 ≠ .noFault ∧ faulted97.fault = true := by decide +kernel

theorem witness_MontgomeryCommandsFaultEven : ((modState 10 1 0 0).M 0).valid = true ∧
    ((modState 10 1 0 0).M 0).odd = false ∧ (modState 10 1 0 0).fault = false ∧ (modState 10 1 0 0).busy = false := by
  decide +kernel

theorem witness_FirstFaultIsKeptUntilReset : s97.fault = false ∧ faulted97.fault = true ∧
    (onEvent faulted97 (.write 0x0C 5)).resetsNext = false ∧
    after (step (onEvent faulted97 (.write 0x0C 5))) (fun t => t.faultCode) = some .nomod := by decide +kernel

theorem witness_MisalignedAccessFaultsAlign : (0xFFFF : Addr).toNat % 8 ≠ 0 ∧ (1 : Addr).toNat % 8 ≠ 0 ∧
    (0xFFF8 : Addr).toNat % 8 = 0 ∧ s97.fault = false ∧ faulted97.fault = true := by decide +kernel

theorem witness_ReservedAndReadOnlyAreIgnored : (0x80 : Addr).toNat = 8 * 0x10 ∧ (0xFF8 : Addr).toNat = 8 * 0x1FF ∧
    (0x8FF0 : Addr).toNat = 8 * (0x200 + 0x100 * 15 + 0xFE) ∧ (0x9FF8 : Addr).toNat = 8 * 0x13FF ∧
    (0xB200 : Addr).toNat = 8 * (0x1400 + 0x200 * 1 + 64) ∧ (0xBFF8 : Addr).toNat = 8 * (0x1500 + 0x200 * 1 + 0xFF) ∧
    (0xFFF8 : Addr).toNat = 8 * 0x1FFF := by decide

theorem witness_EachRegisterHasItsAddress : Target.rrWord 1 63 ≠ .reserved ∧ aligned 0xB818 = true ∧
    portTarget 0xB818 ≠ .reserved := by decide

/-- Each fault code of 60_exceptions R606 as a number in STATUS, for StatusBitsAndDoneClear too. -/
theorem test_fault_codes :
    ([FaultCode.noFault, .illegal, .nomod, .even, .size, .explen, .busy, .badlen, .align].map fun c =>
      ({ s97 with faultCode := c } : State).statusWord.extractLsb' 16 8) =
    [0x00, 0x01, 0x02, 0x03, 0x04, 0x05, 0x10, 0x11, 0x12] := by decide +kernel

/-- The fault record read while idle, after a fault at issue (95_test_vectors P4). -/
theorem test_read_fault_record : faulted97.busy = false ∧
    after (step (onEvent faulted97 (.read 0x20))) (fun t => t.rdata) = some 0x00410223 ∧
    after (step (onEvent faulted97 (.read 0x28))) (fun t => t.rdata) = some 0x18 := by decide +kernel

/-- For IdleReadReturnsTheRegister, HostWritesNatRegisters, ExponentRegisterWrites and StatusBitsAndDoneClear. -/
theorem witness_idle : s97.busy = false ∧ (64 : Word).toNat ≤ NMAX ∧ NMAX < (65 : Word).toNat ∧
    (512 : Word).toNat ≤ EMAXB ∧ EMAXB < (513 : Word).toNat ∧ (64 : Word).toNat ≤ NMAX ∧ (1 : Fin NMAX) ≠ 0 ∧
    (1 : NatIx) ≠ 0 := by decide +kernel

/-- For BusyReadsAreDraws, BusyWritesAreDropped and ExponentRegisterWrites. -/
theorem witness_busy : busy97.busy = true ∧ busy97.fault = false ∧ (busy97.raiseFault .busy 0x1000 5).busy = true ∧
    (busy97.raiseFault .busy 0x1000 5).fault = true := by decide +kernel

theorem witness_OperandsAreFrozenWhileBusy : busy97.busy = true ∧ ¬((0x18 : Addr) = addrOf .ctrl ∧ (1 : Word).getLsbD 0 = true) ∧
    ¬((0x08 : Addr) = addrOf .ctrl ∧ (6 : Word).getLsbD 0 = true) := by decide +kernel

theorem witness_CtrlWritesEnablesOrResets : (7 : Word).getLsbD 0 = true ∧ (6 : Word).getLsbD 0 = false := by decide

theorem witness_CmdReadsTheLastWrite : s97.fault = false ∧ s97.busy = false ∧ s97.checkWord 0x00010223 = .noFault := by
  decide +kernel

theorem witness_ResetStepRestoresEveryValue : ({ busy97 with rstIn := true } : State).resetsNext = true ∧
    (onEvent s97 (.rst true)).resetsNext = true ∧ (onEvent { s97 with rstIn := true } (.rst false)).resetsNext = true ∧
    (onEvent busy97 (.write 0x08 1)).resetsNext = true := by decide +kernel

theorem witness_ModloadLoadsTheModulus : 2 ≤ ((natState 1 2 0 0).N 0).val ∧ 2 ≤ ((natState 1 97 0 0).N 0).val ∧
    (1 : SlotIx) ≠ 0 := by decide +kernel

theorem witness_ModloadRejectsZeroAndOne : ((natState 1 1 0 0).N 0).val ≤ 1 ∧ (State.reset.N 0).val ≤ 1 := by decide +kernel

theorem witness_ExpandAndMovKeepTheValue : (s97.M 0).valid = true ∧ (s97.N 0).len ≤ (s97.M 0).len := by decide +kernel

/-- For AddcAddsWithCarryOut, SubbSubtractsWithBorrowOut, EqualComparesValues and CarryIsWrittenByTheAdderAlone. -/
theorem witness_same_length : (s97.N 0).len = (s97.N 1).len ∧ (State.reset.N 0).len = (State.reset.N 1).len ∧
    check (.addc 2 0 1) s97 = .noFault ∧ check (.subb 2 0 1) s97 = .noFault := by decide +kernel

/-- For ModaddIsAdditionModM and ModsubIsSubtractionModM, on an even modulus. -/
theorem witness_reduced_even : ((modState 10 1 0 9).M 0).valid = true ∧
    ((modState 10 1 0 9).N 0).len = ((modState 10 1 0 9).M 0).len ∧
    ((modState 10 1 0 9).N 1).len = ((modState 10 1 0 9).M 0).len ∧
    ((modState 10 1 0 9).N 0).val < ((modState 10 1 0 9).M 0).mval ∧
    ((modState 10 1 0 9).N 1).val < ((modState 10 1 0 9).M 0).mval := by decide +kernel

/-- For MontgomeryLoopComputesTheProduct, MontmulWritesTheProduct, TomontAndFrommontConvert,
ModmulIsMultiplicationModM, ModexpIsPowerModM and ModexpsIsPowerModM: the smallest and the largest reduced operand. -/
theorem witness_reduced_odd : ((modState 97 1 0 96).M 0).Wf ∧ ((modState 97 1 0 96).M 0).valid = true ∧
    ((modState 97 1 0 96).M 0).odd = true ∧ ((modState 97 1 0 96).N 0).len = ((modState 97 1 0 96).M 0).len ∧
    ((modState 97 1 0 96).N 1).len = ((modState 97 1 0 96).M 0).len ∧
    ((modState 97 1 0 96).N 0).val < ((modState 97 1 0 96).M 0).mval ∧
    ((modState 97 1 0 96).N 1).val < ((modState 97 1 0 96).M 0).mval := by decide +kernel

theorem witness_ModexpIsPowerModM : ((modState 97 1 2 10).M 0).Wf ∧
    8 * ({ modState 97 1 2 10 with elen := 8 } : State).elen.toNat ≤ W * ((modState 97 1 2 10).N 1).len := by decide +kernel

theorem witness_SelectTakesOneOperand : ((s97.setChoice 1 ones).N 0).len = ((s97.setChoice 1 ones).N 1).len ∧
    (s97.setChoice 1 ones).C 1 = ones ∧ (s97.setChoice 1 ones).C 0 = 0 := by decide +kernel

theorem witness_PredicatesWriteTheirChoice : ((modState 2 1 1 0).M 0).Wf ∧ ((modState 2 1 1 0).M 0).valid = true ∧
    ((modState 2 1 1 0).N 0).len = ((modState 2 1 1 0).M 0).len := by decide +kernel

theorem witness_ChoiceCombinators : (s97.C 0 = 0 ∨ s97.C 0 = ones) ∧
    ((s97.setChoice 1 ones).C 1 = 0 ∨ (s97.setChoice 1 ones).C 1 = ones) := by decide +kernel

theorem witness_ModinvInvertsUnits : ((modState 3120 1 17 12).M 0).Wf ∧ ((modState 3120 1 17 12).M 0).valid = true ∧
    ((modState 3120 1 17 12).N 0).len = ((modState 3120 1 17 12).M 0).len ∧
    ((modState 3120 1 17 12).N 0).val < ((modState 3120 1 17 12).M 0).mval ∧
    Nat.gcd ((modState 3120 1 17 12).N 0).val ((modState 3120 1 17 12).M 0).mval = 1 ∧
    Nat.gcd ((modState 3120 1 17 12).N 1).val ((modState 3120 1 17 12).M 0).mval ≠ 1 := by decide +kernel

theorem witness_GcdOfUsableInputs : ((natState 1 12 1 9).N 0).val ≠ 0 ∧ ((natState 1 12 1 9).N 1).val ≠ 0 ∧
    ((natState 1 12 1 9).N 1).val % 2 = 1 ∧ ((natState 1 12 1 18).N 0).val % 2 = 0 ∧
    ((natState 1 12 1 18).N 1).val % 2 = 0 ∧ ((natState 1 0 1 5).N 0).val = 0 ∧ ((natState 1 7 1 0).N 1).val = 0 := by
  decide +kernel

/-- A modulus-length operand equal to the modulus, the smallest unreduced one. -/
theorem witness_UnreducedOperandsGiveDraws : check (.modadd 2 0 1 0) (modState 97 1 97 0) = .noFault ∧
    check (.montmul 2 0 1 0) (modState 97 1 97 0) = .noFault ∧ check (.modexp 2 0 1 0) (modState 97 1 97 0) = .noFault ∧
    check (.modexps 2 0 0) (modState 97 1 97 0) = .noFault ∧ check (.modinv 2 0 0) (modState 97 1 97 0) = .noFault ∧
    ((modState 97 1 97 0).M 0).mval ≤ ((modState 97 1 97 0).N 0).val := by decide +kernel

/-- For CommandFrame, CommandPortFrame, CarryIsWrittenByTheAdderAlone and OkfIsWrittenByThreeCommands: a completed and a
rejected command, destinations and non-destinations. -/
theorem witness_CommandFrame : check (.modmul 2 0 1 0) s97 = .noFault ∧ check (.modmul 2 0 1 1) s97 ≠ .noFault ∧
    natDest (.modmul 2 0 1 0) ≠ some 0 ∧ slotDest (.modmul 2 0 1 0) ≠ some 0 ∧ choiceDest (.equal 0 1 2) ≠ some 1 ∧
    writesCarry (.modmul 2 0 1 0) = false ∧ writesOkf (.modmul 2 0 1 0) = false ∧
    mayChange (.modmul 2 0 1 0) (portTarget 0x1000) = false := by decide +kernel

/-- The next states those statements speak of exist. -/
theorem witness_next_states : (∃ t, exec (.modmul 2 0 1 0) s97 = .next t) ∧ (∃ t, exec (.modload 0 0) s97 = .next t) ∧
    (∃ t, exec (.modinv 2 0 0) s97 = .next t) ∧ (∃ t, exec (.gcd 2 0 1) s97 = .next t) ∧
    (∃ t, exec (.addc 2 0 1) s97 = .next t) ∧ (∃ t, exec (.subb 2 0 1) s97 = .next t) :=
  ⟨exec_next _ _, exec_next _ _, exec_next _ _, exec_next _ _, exec_next _ _, exec_next _ _⟩

theorem witness_OkfIsWrittenByThreeCommands : check (.modinv 2 0 0) s97 = .noFault ∧
    (s97.N 0).val < (s97.M 0).mval := by decide +kernel

/-- A step that changes a choice, and one that changes a slot. -/
theorem witness_ChoicesStayZeroOrOnes : (∀ c, s97.C c = 0 ∨ s97.C c = ones) ∧
    after (run s97 0x00200042) (fun t => t.C 2) = some 0 ∧
    after (run (s97.setChoice 2 ones) 0x00200042) (fun t => t.C 2) = some 0 ∧ (s97.setChoice 2 ones).C 2 ≠ 0 := by
  decide +kernel

theorem witness_SlotsChangeOnlyByModload : after (run s97 0x00000001) (fun t => decide (t.M 0 = s97.M 0)) = some false := by
  decide +kernel

/-! For EveryStepKeepsTheInvariant and IssuedCommandsComplete: reset, idle with a slot loaded, a command pending, a fault
on record, `rst` high. -/

theorem witness_Inv_reset : State.reset.Inv := by decide +kernel

theorem witness_Inv_idle : s97.Inv := by decide +kernel

theorem witness_Inv_busy : busy97.Inv := by decide +kernel

theorem witness_Inv_faulted : faulted97.Inv := by decide +kernel

theorem witness_Inv_rst : ({ State.reset with rstIn := true } : State).Inv := by decide +kernel

/-- Two states that differ in secrets only, with a command of each kind pending, and a step of each. -/
theorem witness_PublicStateIgnoresSecrets : PublicEq busy97 ((modState 101 1 7 8).withFetchWord 32 0x00010223) ∧
    busy97.engineNext = true ∧ (∃ i, decodeCommand busy97.pend = .ok i ∧ writesOkf i = false) ∧
    busy97.N 0 ≠ ((modState 101 1 7 8).withFetchWord 32 0x00010223).N 0 ∧
    (onEvent (s97.withFetchWord 32 0x1) (.read 0)).engineNext = false := by
  refine ⟨by decide +kernel, by decide +kernel, ⟨.modmul 2 0 1 0, by decide +kernel⟩, by decide +kernel, by decide +kernel⟩

theorem witness_public_steps : after (step busy97) (fun t => t.done) = some true ∧
    after (step ((modState 101 1 7 8).withFetchWord 32 0x00010223)) (fun t => t.done) = some true := by decide +kernel

/-- For MODLOAD's cycles: two values of one bit length; for the others, any two public-equal states. -/
theorem witness_CyclesDependOnPublicSizes : PublicEq (natState 1 97 1 0) (natState 1 101 1 0) ∧
    bitlen ((natState 1 97 1 0).N 0).val = bitlen ((natState 1 101 1 0).N 0).val := by decide +kernel

/-- Two states that agree on the numbers of every row of R731 and on little else: values, choices and faults differ. -/
theorem witness_CyclesDependOnPublicSizes_rows :
    let s := s97
    let t := ((modState 101 1 7 8).setChoice 1 ones).raiseFault .align 1 2
    (s.N 0).len = (t.N 1).len ∧ (s.N 1).len = (t.N 0).len ∧ (s.M 0).len = (t.M 0).len ∧ s.elen = t.elen ∧
      s.eshort = t.eshort ∧ s.N 0 ≠ t.N 1 ∧ s.M 0 ≠ t.M 0 ∧ s.fault ≠ t.fault ∧
      after (exec (.modload 1 0) s) (fun u => ((u.M 1).len, (u.M 1).bits)) = some (1, 4) ∧
      after (exec (.modload 1 1) t) (fun u => ((u.M 1).len, (u.M 1).bits)) = some (1, 4) := by decide +kernel

/-- A buffer of nine bytes crosses into a second word: its first byte is the low byte of word 1 (20_memory R205). -/
theorem test_buffer : wordAt (bufferValue [0xAB, 1, 2, 3, 4, 5, 6, 7, 8]) 1 = 0xAB ∧
    wordAt (bufferValue [0xAB, 1, 2, 3, 4, 5, 6, 7, 8]) 0 = 0x0102030405060708 ∧ bufferLen 9 = 2 ∧
    bytesOf 3 0x0102 = [0, 1, 2] := by decide +kernel

/-- The assembler lines of 30_encoding R309, R310. -/
theorem test_asm : asm (.modmul 2 0 1 0) = "modmul n2, n0, n1, m0" ∧ asm (.cand 3 1 2) = "cand c3, c1, c2" ∧
    asm (cmov 2 1 0) = "select n2, c1, n0, n2" := by decide +kernel

end Sys2Proof.Tests
end

section
/-! What is public after a step depends only on what was public before it (00_scope R25). `State.publicPart` erases
what is secret, so that two states agree on what is public exactly when their public parts are equal; the operations of
the machine are then followed one by one, up to the step. -/

namespace Sys2Proof.Machine

/-! ## The public part of a state -/

/-- A register with its words erased: its announced length is public (10_state R103). -/
def NatReg.publicPart (x : NatReg) : NatReg := { x with w := Vector.replicate _ 0 }

/-- A slot with the modulus and its constants erased: its flags and sizes are public. -/
def Slot.publicPart (m : Slot) : Slot := { m with w := Vector.replicate _ 0, m0inv := 0, rr := Vector.replicate _ 0 }

/-- A state with all that `PublicEq` leaves out erased: words, moduli, choices, CARRY, OKF, the last answer and the
count of draws. -/
def State.publicPart (s : State) : State :=
  { s with
    nats := s.nats.map NatReg.publicPart
    slots := s.slots.map Slot.publicPart
    choices := Vector.replicate _ 0
    carry := false
    okf := false
    rdata := 0
    draws := 0 }

@[simp] theorem State.publicPart_N (s : State) (r : NatIx) : s.publicPart.N r = (s.N r).publicPart := by
  simp [State.publicPart, State.N]

@[simp] theorem State.publicPart_M (s : State) (k : SlotIx) : s.publicPart.M k = (s.M k).publicPart := by
  simp [State.publicPart, State.M]

theorem NatReg.publicPart_eq_iff (x y : NatReg) : x.publicPart = y.publicPart ↔ x.len = y.len := by
  simp [NatReg.publicPart]

theorem Slot.publicPart_eq_iff (m p : Slot) :
    m.publicPart = p.publicPart ↔ m.valid = p.valid ∧ m.odd = p.odd ∧ m.len = p.len ∧ m.bits = p.bits := by
  simp [Slot.publicPart]

variable {s t : State}

theorem publicEq_iff : PublicEq s t ↔ s.publicPart = t.publicPart := by
  constructor
  · rintro ⟨hN, hM, hctl⟩
    have hn : s.publicPart.nats = t.publicPart.nats :=
      State.nats_ext _ _ fun r => by simpa [NatReg.publicPart_eq_iff] using hN r
    have hm : s.publicPart.slots = t.publicPart.slots :=
      State.slots_ext _ _ fun k => by simpa [Slot.publicPart_eq_iff] using hM k
    simp only [State.publicPart] at hn hm ⊢
    simp only [hn, hm, hctl]
  · intro h
    have hN (r : NatIx) : (s.N r).publicPart = (t.N r).publicPart := by
      simpa using congrArg (State.N · r) h
    have hM (k : SlotIx) : (s.M k).publicPart = (t.M k).publicPart := by
      simpa using congrArg (State.M · k) h
    obtain ⟨-, -, hctl⟩ := State.mk.inj h
    exact ⟨fun r => (NatReg.publicPart_eq_iff _ _).1 (hN r), fun k => (Slot.publicPart_eq_iff _ _).1 (hM k), by
      simpa using hctl⟩

theorem PublicEq.N_len (h : PublicEq s t) (r : NatIx) : (s.N r).len = (t.N r).len := h.1 r

theorem PublicEq.M_public (h : PublicEq s t) (k : SlotIx) :
    (s.M k).valid = (t.M k).valid ∧ (s.M k).odd = (t.M k).odd ∧ (s.M k).len = (t.M k).len ∧ (s.M k).bits = (t.M k).bits :=
  h.2.1 k

theorem PublicEq.M_valid (h : PublicEq s t) (k : SlotIx) : (s.M k).valid = (t.M k).valid := (h.M_public k).1

theorem PublicEq.M_odd (h : PublicEq s t) (k : SlotIx) : (s.M k).odd = (t.M k).odd := (h.M_public k).2.1

theorem PublicEq.M_len (h : PublicEq s t) (k : SlotIx) : (s.M k).len = (t.M k).len := (h.M_public k).2.2.1

theorem PublicEq.busy (h : PublicEq s t) : s.busy = t.busy :=
  (congrArg State.busy (publicEq_iff.1 h) :)

theorem PublicEq.fault (h : PublicEq s t) : s.fault = t.fault :=
  (congrArg State.fault (publicEq_iff.1 h) :)

theorem PublicEq.elen (h : PublicEq s t) : s.elen = t.elen :=
  (congrArg State.elen (publicEq_iff.1 h) :)

theorem PublicEq.pend (h : PublicEq s t) : s.pend = t.pend :=
  (congrArg State.pend (publicEq_iff.1 h) :)

theorem PublicEq.rstIn (h : PublicEq s t) : s.rstIn = t.rstIn :=
  (congrArg State.rstIn (publicEq_iff.1 h) :)

theorem PublicEq.events (h : PublicEq s t) : s.events = t.events :=
  (congrArg State.events (publicEq_iff.1 h) :)

/-! ## Operations on states that agree on what is public -/

/-- Two branchings on equivalent conditions are related when their branches are. -/
theorem ite_related {α : Type} {R : α → α → Prop} {p q : Prop} [Decidable p] [Decidable q] {a b c d : α} (hpq : p ↔ q)
    (hpos : p → R a c) (hneg : ¬p → R b d) : R (if p then a else b) (if q then c else d) := by
  by_cases hp : p
  · simpa [hp, hpq.1 hp] using hpos hp
  · simpa [hp, mt hpq.2 hp] using hneg hp

/-- An operation that commutes with erasing what is secret keeps the agreement on what is public. -/
theorem PublicEq.map {f : State → State} (hf : ∀ u, (f u).publicPart = f u.publicPart) (h : PublicEq s t) :
    PublicEq (f s) (f t) := by
  rw [publicEq_iff, hf, hf, publicEq_iff.1 h]

/-- Two states whose public parts are those of `s` and `t` agree on what is public when `s` and `t` do. -/
theorem PublicEq.congr {s' t' : State} (h : PublicEq s t) (hs : s'.publicPart = s.publicPart)
    (ht : t'.publicPart = t.publicPart) : PublicEq s' t' := by
  rw [publicEq_iff, hs, ht, publicEq_iff.1 h]

theorem State.publicPart_raiseFault (s : State) (c : FaultCode) (a v : Word) :
    (s.raiseFault c a v).publicPart = s.publicPart.raiseFault c a v := apply_ite State.publicPart _ _ _

theorem State.publicPart_setNat (s : State) (r : NatIx) (x : NatReg) :
    (s.setNat r x).publicPart = s.publicPart.setNat r x.publicPart := by
  simp [State.publicPart, State.setNat, Vector.map_set]

theorem State.publicPart_resetBlock (s : State) : s.resetBlock.publicPart = s.publicPart.resetBlock := by
  simp [State.publicPart, State.resetBlock, State.reset, NatReg.publicPart, Slot.publicPart, NatReg.zero, Slot.empty]

theorem State.publicPart_readTarget (s : State) (a : Target) : (s.readTarget a).publicPart = s.publicPart := by
  unfold State.readTarget
  split
  · rfl
  · split <;> rfl

theorem PublicEq.raiseFault (h : PublicEq s t) (c : FaultCode) (a v : Word) :
    PublicEq (s.raiseFault c a v) (t.raiseFault c a v) :=
  h.map (f := (·.raiseFault c a v)) fun u => u.publicPart_raiseFault c a v

theorem PublicEq.resetBlock (h : PublicEq s t) : PublicEq s.resetBlock t.resetBlock :=
  h.map State.publicPart_resetBlock

theorem PublicEq.answer (h : PublicEq s t) (v w : Word) : PublicEq (s.answer v) (t.answer w) := h.congr rfl rfl

theorem PublicEq.complete (h : PublicEq s t) : PublicEq s.complete t.complete := h.map fun _ => rfl

/-- Registers of equal lengths may be stored, whatever their words. -/
theorem PublicEq.setNat (h : PublicEq s t) (r : NatIx) {x y : NatReg} (hxy : x.len = y.len) :
    PublicEq (s.setNat r x) (t.setNat r y) := by
  rw [publicEq_iff, s.publicPart_setNat, t.publicPart_setNat, publicEq_iff.1 h, (NatReg.publicPart_eq_iff x y).2 hxy]

theorem PublicEq.writeNat (h : PublicEq s t) (d : NatIx) (v w : Nat) {n p : Len} (hnp : n = p) :
    PublicEq (s.writeNat d v n) (t.writeNat d w p) := h.setNat d hnp

/-- A residue has the modulus length whether its operands are reduced or not: a draw tells nothing of them
(41_nat_and_modulus R402). -/
theorem PublicEq.writeResidue (h : PublicEq s t) (b c : Bool) (d : NatIx) (k : SlotIx) (v w : Nat) :
    PublicEq (s.writeResidue b d k v) (t.writeResidue c d k w) := by
  obtain ⟨x, n, hs, hx⟩ := s.writeResidue_cases b d k v
  obtain ⟨y, p, ht, hy⟩ := t.writeResidue_cases c d k w
  rw [hs, ht]
  exact (h.setNat d (hx.trans ((h.M_len k).trans hy.symm))).congr rfl rfl

theorem PublicEq.setChoice (h : PublicEq s t) (k : ChoiceIx) (v w : Word) :
    PublicEq (s.setChoice k v) (t.setChoice k w) := h.congr rfl rfl

/-! ## The checks and the commands -/

theorem PublicEq.sizeOk_eq (h : PublicEq s t) (i : Instr) : sizeOk i s = sizeOk i t := by
  cases i <;> simp only [sizeOk, h.N_len, h.M_len]

theorem PublicEq.exponentFits_eq (h : PublicEq s t) (i : Instr) : exponentFits i s = exponentFits i t := by
  cases i <;> simp only [exponentFits, h.N_len, h.elen]

/-- No check depends on a secret (60_exceptions R602). -/
theorem PublicEq.check_eq (h : PublicEq s t) (i : Instr) : check i s = check i t := by
  simp only [check, h.M_valid, h.M_odd, h.sizeOk_eq i, h.exponentFits_eq i]

theorem PublicEq.checkWord_eq (h : PublicEq s t) (v : Word) : s.checkWord v = t.checkWord v := by
  simp only [State.checkWord, h.check_eq]

/-- The next states of two outcomes agree on what is public, where both have one. -/
def OutcomesAgree (o p : Host.Outcome State Fault Refusal) : Prop :=
  ∀ s' t', o = .next s' → p = .next t' → PublicEq s' t'

theorem PublicEq.outcomesAgree (h : PublicEq s t) : OutcomesAgree (.next s) (.next t) := by
  rintro _ _ ⟨⟩ ⟨⟩
  exact h

/-- An effect on the state that lets nothing secret into what is public. -/
def KeepsPublicEq (f : State → State) : Prop := ∀ s t, PublicEq s t → PublicEq (f s) (f t)

/-- The effect of every command but MODLOAD, MODINV and GCD keeps the agreement on what is public: it
writes a value at a public length, or a choice, and CARRY. -/
theorem exec_effect_keepsPublicEq (i : Instr) (hi : writesOkf i = false) :
    ∃ f, (∀ s, exec i s = command i f s) ∧ KeepsPublicEq f := by
  cases i with
  | modload => cases hi
  | modinv => cases hi
  | gcd => cases hi
  | expand d k => exact ⟨_, fun _ => rfl, fun _ _ h => h.writeNat d _ _ (h.M_len k)⟩
  | mov d a => exact ⟨_, fun _ => rfl, fun _ _ h => h.writeNat d _ _ (h.N_len a)⟩
  | addc d a b => exact ⟨_, fun _ => rfl, fun _ _ h => (h.writeNat d _ _ (h.N_len a)).congr rfl rfl⟩
  | subb d a b => exact ⟨_, fun _ => rfl, fun _ _ h => (h.writeNat d _ _ (h.N_len a)).congr rfl rfl⟩
  | select d k a b => exact ⟨_, fun _ => rfl, fun _ _ h => h.writeNat d _ _ (h.N_len a)⟩
  | modadd d a b k | modsub d a b k | montmul d a b k | modmul d a b k | modexp d a b k
  | tomont d a k | frommont d a k | modexps d a k =>
    exact ⟨_, fun _ => rfl, fun _ _ h => h.writeResidue _ _ d k _ _⟩
  | equal c | iszero c | isone c | isminusone c | isodd c | cand c | cor c =>
    exact ⟨_, fun _ => rfl, fun _ _ h => h.setChoice c _ _⟩

theorem PublicEq.abandon (h : PublicEq s t) (i : Instr) (c : FaultCode) : PublicEq (s.abandon i c) (t.abandon i c) :=
  (h.raiseFault c cmdAddr (encode i)).map (f := ({ · with busy := false })) fun _ => rfl

theorem PublicEq.exec_agree (h : PublicEq s t) (i : Instr) (hi : writesOkf i = false) :
    OutcomesAgree (exec i s) (exec i t) := by
  obtain ⟨f, hexec, hf⟩ := exec_effect_keepsPublicEq i hi
  rw [hexec, hexec, command, command, h.check_eq i]
  split
  · exact (hf s t h).complete.outcomesAgree
  · exact (h.abandon i _).outcomesAgree

/-! ## The port -/

theorem PublicEq.hostRead (h : PublicEq s t) (addr : Addr) : PublicEq (s.hostRead addr) (t.hostRead addr) := by
  unfold State.hostRead
  split
  · exact h.congr (s.publicPart_readTarget _) (t.publicPart_readTarget _)
  · exact (h.raiseFault .align (busAddr addr) 0).answer 0 0

theorem PublicEq.guardBusy (h : PublicEq s t) (addr : Addr) (v : Word) {s' t' : State} (h' : PublicEq s' t') :
    PublicEq (s.guardBusy addr v s') (t.guardBusy addr v t') := by
  unfold State.guardBusy
  rw [h.busy]
  split
  · exact h.raiseFault .busy (busAddr addr) v
  · exact h'

theorem PublicEq.writeCtrl (h : PublicEq s t) (v : Word) : PublicEq (s.writeCtrl v) (t.writeCtrl v) := by
  unfold State.writeCtrl
  split
  · exact h.resetBlock
  · exact h.map (f := ({ · with doneie := v.getLsbD 1, faultie := v.getLsbD 2 })) fun _ => rfl

theorem PublicEq.writeStatus (h : PublicEq s t) (v : Word) : PublicEq (s.writeStatus v) (t.writeStatus v) := by
  unfold State.writeStatus
  split
  · exact h.map (f := ({ · with done := false })) fun _ => rfl
  · exact h

theorem PublicEq.writeCmd (h : PublicEq s t) (v : Word) : PublicEq (s.writeCmd v) (t.writeCmd v) := by
  have hl : PublicEq { s with lastCmd := v } { t with lastCmd := v } :=
    h.map (f := ({ · with lastCmd := v })) fun _ => rfl
  unfold State.writeCmd
  rw [h.checkWord_eq v]
  refine ite_related (R := PublicEq) (by rw [h.fault]) (fun _ => hl) fun _ => ?_
  refine ite_related (R := PublicEq) (by rw [h.busy]) (fun _ => hl.raiseFault _ _ _) fun _ => ?_
  split
  · exact hl.map (f := (·.latch v)) fun _ => rfl
  · exact hl.raiseFault _ _ _

theorem PublicEq.writeLen (h : PublicEq s t) (addr : Addr) (r : NatIx) (v : Word) :
    PublicEq (s.writeLen addr r v) (t.writeLen addr r v) := by
  unfold State.writeLen
  split
  · exact h.setNat r rfl
  · exact h.raiseFault _ _ _

theorem PublicEq.writeElen (h : PublicEq s t) (addr : Addr) (v : Word) :
    PublicEq (s.writeElen addr v) (t.writeElen addr v) := by
  unfold State.writeElen
  split
  · exact h.map (f := ({ · with elen := v })) fun _ => rfl
  · exact h.raiseFault _ _ _

theorem PublicEq.writeTarget (h : PublicEq s t) (addr : Addr) (v : Word) (a : Target) :
    PublicEq (s.writeTarget addr v a) (t.writeTarget addr v a) := by
  cases a with
  | ctrl => exact h.writeCtrl v
  | status => exact h.writeStatus v
  | cmd => exact h.writeCmd v
  | elen => exact h.guardBusy addr v (h.writeElen addr v)
  | eshort => exact h.guardBusy addr v (h.map (f := ({ · with eshort := v })) fun _ => rfl)
  | natWord r i => exact h.guardBusy addr v (h.setNat r (h.N_len r))
  | natLen r => exact h.guardBusy addr v (h.writeLen addr r v)
  | id | faultData | faultAddr | minfo | m0inv | choice | modWord | rrWord | reserved => exact h

theorem PublicEq.hostWrite (h : PublicEq s t) (addr : Addr) (v : Word) :
    PublicEq (s.hostWrite addr v) (t.hostWrite addr v) := by
  unfold State.hostWrite
  split
  · exact h.writeTarget addr v _
  · exact h.raiseFault _ _ _

/-! ## The step -/

theorem PublicEq.setRstIn (h : PublicEq s t) (level : Bool) :
    PublicEq { s with rstIn := level } { t with rstIn := level } :=
  h.map (f := ({ · with rstIn := level })) fun _ => rfl

theorem PublicEq.setEvents (h : PublicEq s t) (es : List Event) :
    PublicEq { s with events := es } { t with events := es } :=
  h.map (f := ({ · with events := es })) fun _ => rfl

theorem PublicEq.heldInReset (h : PublicEq s t) (e : Event) : PublicEq (s.heldInReset e) (t.heldInReset e) := by
  cases e with
  | read addr =>
    exact ite_related (R := PublicEq) Iff.rfl (fun _ => h.resetBlock.answer _ _) fun _ => h.resetBlock.answer 0 0
  | write addr v => exact h.resetBlock
  | engine => exact h.resetBlock
  | rst level => exact h.resetBlock.setRstIn level

theorem PublicEq.engineStep_agree (h : PublicEq s t)
    (hi : s.busy = true → ∀ i, decodeCommand s.pend = .ok i → writesOkf i = false) :
    OutcomesAgree (engineStep s) (engineStep t) := by
  rcases engineStep_cases s with ⟨hb, hs⟩ | ⟨hb, i, hd, hs⟩ | ⟨-, -, hs⟩
  · rw [hs, engineStep, ← h.busy, hb]
    exact h.outcomesAgree
  · rw [hs, engineStep, ← h.busy, hb, ← h.pend, hd]
    exact h.exec_agree i (hi hb i hd)
  · rw [hs]
    rintro _ _ ⟨⟩

theorem PublicEq.liveEvent_agree (h : PublicEq s t) (e : Event)
    (hi : e = .engine → s.busy = true → ∀ i, decodeCommand s.pend = .ok i → writesOkf i = false) :
    OutcomesAgree (liveEvent s e) (liveEvent t e) := by
  cases e with
  | read addr => exact (h.hostRead addr).outcomesAgree
  | write addr v => exact (h.hostWrite addr v).outcomesAgree
  | engine => exact h.engineStep_agree (hi rfl)
  | rst level =>
    cases level with
    | false => exact h.outcomesAgree
    | true => exact (h.resetBlock.setRstIn true).outcomesAgree

theorem PublicEq.step_agree (h : PublicEq s t)
    (hi : s.engineNext = true → ∀ i, decodeCommand s.pend = .ok i → writesOkf i = false) :
    OutcomesAgree (step s) (step t) := by
  unfold step transition
  rw [← h.events]
  cases he : s.events with
  | nil =>
    refine ite_related (R := OutcomesAgree) (by rw [h.rstIn]) (fun _ => h.resetBlock.outcomesAgree) fun hr => ?_
    exact h.engineStep_agree fun hb => hi (by simp [State.engineNext, hr, hb, he])
  | cons e rest =>
    have ht := h.setEvents rest
    refine ite_related (R := OutcomesAgree) (by rw [h.rstIn]) (fun _ => (ht.heldInReset e).outcomesAgree) fun hr => ?_
    exact ht.liveEvent_agree e fun hen hb => hi (by simp [State.engineNext, hr, show s.busy = true from hb, he, hen])

end Sys2Proof.Machine

/-- Settles O58, operation by operation: what each one does to the public part of a state depends on that part alone. -/
theorem publicStateIgnoresSecrets : Obligations.PublicStateIgnoresSecrets :=
  fun _ _ s' t' h hi hs ht => h.step_agree hi s' t' hs ht
end

section
/-! The host port at a register's own address: `addrOf` and `portTarget` undo each other (20_memory R202), so an access
there is the register's. -/

namespace Sys2Proof.Machine

open Sys2Proof.Config

/-- A byte address fits the 16 bits of the port. -/
theorem indexOf_mul_WB_lt (t : Target) : indexOf t * WB < 2 ^ 16 := by
  cases t with
  | natWord r i | modWord k i | rrWord k i =>
    have hi : i.val < 64 := i.isLt
    simp only [indexOf, WB]
    omega
  | minfo | m0inv | choice | natLen => simp only [indexOf, WB]; omega
  | id | ctrl | status | cmd | faultData | faultAddr | elen | eshort | reserved => decide

@[simp] theorem addrOf_toNat (t : Target) : (addrOf t).toNat = indexOf t * WB := by
  rw [addrOf, BitVec.toNat_ofNat, Nat.mod_eq_of_lt (indexOf_mul_WB_lt t)]

@[simp] theorem aligned_addrOf (t : Target) : aligned (addrOf t) = true := by
  simp [aligned]

/-- The word index of `N[r]`'s window plus `o` names what the window holds at `o` (20_memory R202). -/
theorem targetOf_nat (r : NatIx) {o : Nat} (ho : o < 0x100) :
    targetOf (0x200 + 0x100 * r + o) =
      if h : o < NMAX then .natWord r ⟨o, h⟩ else if o = 0xFF then .natLen r else .reserved := by
  have hr : (0x200 + 0x100 * r.val + o - 0x200) / 0x100 = r := by omega
  have ho : (0x200 + 0x100 * r.val + o - 0x200) % 0x100 = o := by omega
  unfold targetOf
  rw [if_neg (by omega), if_neg (by omega), if_pos (by omega)]
  simp only [natTarget, hr, ho, Fin.ofNat_val_eq_self]

/-- The word index of `M[k]`'s window plus `o` names what the window holds at `o` (20_memory R202). -/
theorem targetOf_slot (k : SlotIx) {o : Nat} (ho : o < 0x200) :
    targetOf (0x1400 + 0x200 * k + o) =
      if h : o < NMAX then .modWord k ⟨o, h⟩
      else if h : 0x100 ≤ o ∧ o - 0x100 < NMAX then .rrWord k ⟨o - 0x100, h.2⟩ else .reserved := by
  have hk : (0x1400 + 0x200 * k.val + o - 0x1400) / 0x200 = k := by omega
  have ho : (0x1400 + 0x200 * k.val + o - 0x1400) % 0x200 = o := by omega
  unfold targetOf
  rw [if_neg (by omega), if_neg (by omega), if_neg (by omega), if_neg (by omega), if_pos (by omega)]
  simp only [slotTarget, hk, ho, Fin.ofNat_val_eq_self]

theorem targetOf_indexOf (t : Target) : targetOf (indexOf t) = t := by
  have hmax (i : Fin NMAX) : i.val < 64 := i.isLt
  cases t with
  | minfo k | m0inv k => revert k; decide
  | choice c => revert c; decide
  | natWord r i => rw [indexOf, targetOf_nat r (by have := hmax i; omega), dif_pos i.isLt]
  | natLen r => rw [indexOf, targetOf_nat r (by omega)]; rfl
  | modWord k i => rw [indexOf, targetOf_slot k (by have := hmax i; omega), dif_pos i.isLt]
  | rrWord k i =>
    have hi : 0x100 ≤ 0x100 + i.val ∧ 0x100 + i.val - 0x100 < NMAX := by have := hmax i; simp only [NMAX]; omega
    rw [indexOf, show 0x1500 + 0x200 * k.val + i.val = 0x1400 + 0x200 * k.val + (0x100 + i.val) by omega,
      targetOf_slot k (by have := hmax i; omega), dif_neg (by simp only [NMAX]; omega), dif_pos hi]
    simp
  | id | ctrl | status | cmd | faultData | faultAddr | elen | eshort | reserved => decide

@[simp] theorem portTarget_addrOf (t : Target) : portTarget (addrOf t) = t := by
  rw [portTarget, addrOf_toNat, Nat.mul_div_cancel _ (by decide), targetOf_indexOf]

theorem State.hostRead_addrOf (s : State) (t : Target) : s.hostRead (addrOf t) = s.readTarget t := by
  simp [State.hostRead]

theorem State.hostWrite_addrOf (s : State) (t : Target) (v : Word) :
    s.hostWrite (addrOf t) v = s.writeTarget (addrOf t) v t := by
  simp [State.hostWrite]

/-- A register whose read is exact whatever BUSY is (20_memory R221). -/
theorem State.hostRead_exact (s : State) {t : Target} (hv : volatileWhileBusy t = false) (hs : t ≠ .status) :
    s.hostRead (addrOf t) = { s with rdata := s.peek t } := by
  simp [State.hostRead_addrOf, State.readTarget, State.answer, hv, hs]

/-- Every register reads exactly while the block is idle (20_memory R210). -/
theorem State.hostRead_idle (s : State) (t : Target) (hb : s.busy = false) :
    s.hostRead (addrOf t) = { s with rdata := s.peek t } := by
  simp [State.hostRead_addrOf, State.readTarget, State.answer, hb]

/-- The word index that names CTRL is its own. -/
theorem eq_indexOf_of_targetOf_ctrl {a : Nat} (h : targetOf a = .ctrl) : a = indexOf .ctrl := by
  rcases Nat.lt_or_ge a 0x10 with ha | ha
  · exact (show ∀ a < 0x10, targetOf a = .ctrl → a = indexOf .ctrl by decide) a ha h
  · unfold targetOf at h
    rw [if_neg (by omega)] at h
    simp only [natTarget, slotTarget] at h
    split_ifs at h

/-- CTRL is at one aligned address only (20_memory R202). -/
theorem eq_addrOf_ctrl {addr : Addr} (ha : aligned addr = true) (h : portTarget addr = .ctrl) :
    addr = addrOf .ctrl := by
  have hidx : addr.toNat / WB = indexOf .ctrl := eq_indexOf_of_targetOf_ctrl h
  have hmod : addr.toNat % WB = 0 := by simpa [aligned] using ha
  apply BitVec.eq_of_toNat_eq
  rw [addrOf_toNat, ← hidx, Nat.div_mul_cancel (Nat.dvd_of_mod_eq_zero hmod)]

end Sys2Proof.Machine
end

section
/-! What the effect of a command may change, command by command, and which flags it reads: none. -/

namespace Sys2Proof.Machine

open Sys2Proof.Config

/-! ## The frame of a command -/

/-- From `s` to `t` only what the command `i` may write differs: its destinations, its flags and the count of draws. -/
structure EffectFrame (i : Instr) (s t : State) : Prop where
  control : t = { s with nats := t.nats, slots := t.slots, choices := t.choices, carry := t.carry, okf := t.okf,
                         draws := t.draws }
  N : ∀ r, natDest i ≠ some r → t.N r = s.N r
  M : ∀ k, slotDest i ≠ some k → t.M k = s.M k
  C : ∀ c, choiceDest i ≠ some c → t.C c = s.C c
  carry : writesCarry i = false → t.carry = s.carry
  okf : writesOkf i = false → t.okf = s.okf

variable {i : Instr} {s : State}

/-- The control state in an `EffectFrame` is that of the state before. -/
theorem EffectFrame.exists_eq {t : State} (h : EffectFrame i s t) : ∃ nats slots choices carry okf draws,
    t = { s with nats := nats, slots := slots, choices := choices, carry := carry, okf := okf, draws := draws } :=
  ⟨_, _, _, _, _, _, h.control⟩

/-- Storing the Nat destination is within the frame, and so are the flags and the count of draws the command writes. -/
theorem EffectFrame.setNat {d : NatIx} {c o : Bool} {n : Nat} (hd : natDest i = some d) (x : NatReg)
    (hc : writesCarry i = false → c = s.carry) (ho : writesOkf i = false → o = s.okf) :
    EffectFrame i s { s.setNat d x with carry := c, okf := o, draws := n } where
  control := rfl
  N r hr := s.setNat_N_ne d r x fun h => hr (h ▸ hd)
  M _ _ := rfl
  C _ _ := rfl
  carry := hc
  okf := ho

theorem EffectFrame.setChoice {k : ChoiceIx} (hk : choiceDest i = some k) (v : Word) :
    EffectFrame i s (s.setChoice k v) where
  control := rfl
  N _ _ := rfl
  M _ _ := rfl
  C c hc := s.setChoice_C_ne k c v fun h => hc (h ▸ hk)
  carry _ := rfl
  okf _ := rfl

theorem EffectFrame.setSlot {k : SlotIx} (hk : slotDest i = some k) (m : Slot) {o : Bool} (ho : writesOkf i = true) :
    EffectFrame i s { s.setSlot k m with okf := o } where
  control := rfl
  N _ _ := rfl
  M j hj := s.setSlot_M_ne k j m fun h => hj (h ▸ hk)
  C _ _ := rfl
  carry _ := rfl
  okf h := by rw [ho] at h; cases h

theorem EffectFrame.setOkf {o : Bool} (ho : writesOkf i = true) : EffectFrame i s { s with okf := o } where
  control := rfl
  N _ _ := rfl
  M _ _ := rfl
  C _ _ := rfl
  carry _ := rfl
  okf h := by rw [ho] at h; cases h

theorem EffectFrame.writeNat {d : NatIx} (hd : natDest i = some d) (v : Nat) (n : Len) :
    EffectFrame i s (s.writeNat d v n) :=
  .setNat hd _ (fun _ => rfl) (fun _ => rfl)

theorem EffectFrame.writeResidue {d : NatIx} (hd : natDest i = some d) (b : Bool) (k : SlotIx) (v : Nat) :
    EffectFrame i s (s.writeResidue b d k v) := by
  obtain ⟨x, n, hx, -⟩ := s.writeResidue_cases b d k v
  rw [hx]
  exact .setNat hd x (fun _ => rfl) (fun _ => rfl)

/-- Every command is its checks around an effect within its frame. -/
theorem exec_effect_frame (i : Instr) :
    ∃ f : State → State, (∀ s, exec i s = command i f s) ∧ ∀ s, EffectFrame i s (f s) := by
  cases i with
  | modload k a =>
    refine ⟨_, fun _ => rfl, fun s => ?_⟩
    dsimp only
    split
    · exact .setSlot rfl _ rfl
    · exact .setSlot rfl _ rfl
  | modinv d a k =>
    refine ⟨_, fun _ => rfl, fun s => ?_⟩
    dsimp only
    split
    · split
      · exact .setNat rfl _ (fun _ => rfl) nofun
      · exact .setOkf rfl
    · exact .setNat rfl _ (fun _ => rfl) nofun
  | gcd d a b =>
    refine ⟨_, fun _ => rfl, fun s => ?_⟩
    dsimp only
    split
    · exact .setOkf rfl
    · exact .setNat rfl _ (fun _ => rfl) nofun
  | addc | subb => exact ⟨_, fun _ => rfl, fun s => .setNat rfl _ nofun (fun _ => rfl)⟩
  | expand | mov | select => exact ⟨_, fun _ => rfl, fun s => .writeNat rfl _ _⟩
  | modadd | modsub | montmul | tomont | frommont | modmul | modexp | modexps =>
    exact ⟨_, fun _ => rfl, fun s => .writeResidue rfl _ _ _⟩
  | equal | iszero | isone | isminusone | isodd | cand | cor => exact ⟨_, fun _ => rfl, fun s => .setChoice rfl _⟩

/-- What a command answers: its effect, completed, when its checks pass, else the record of the fault alone
(60_exceptions R604, R611). -/
theorem exec_cases (i : Instr) (s : State) :
    (check i s = .noFault ∧ ∃ t, exec i s = .next t.complete ∧ EffectFrame i s t) ∨
    (check i s ≠ .noFault ∧ exec i s = .next (s.abandon i (check i s))) := by
  obtain ⟨f, hexec, hf⟩ := exec_effect_frame i
  rw [hexec]
  rcases command_cases i f s with ⟨hc, hn⟩ | hr
  · exact .inl ⟨hc, f s, hn, hf s⟩
  · exact .inr hr

/-! ## The flags are not read -/

/-- `s` with other values of the two flags CARRY and OKF. -/
def State.withFlags (s : State) (c o : Bool) : State := { s with carry := c, okf := o }

/-- No check depends on a flag (60_exceptions R602). -/
theorem check_withFlags (i : Instr) (s : State) (c o : Bool) : check i (s.withFlags c o) = check i s := by
  cases i <;> rfl

theorem State.raiseFault_withFlags (s : State) (e : FaultCode) (a v : Word) (c o : Bool) :
    (s.withFlags c o).raiseFault e a v = (s.raiseFault e a v).withFlags c o := by
  cases h : s.fault
  · rw [State.raiseFault_of_clear h, State.raiseFault_of_clear (s := s.withFlags c o) h]
    rfl
  · rw [State.raiseFault_of_fault h, State.raiseFault_of_fault (s := s.withFlags c o) h]

theorem State.abandon_withFlags (s : State) (i : Instr) (e : FaultCode) (c o : Bool) :
    (s.withFlags c o).abandon i e = (s.abandon i e).withFlags c o := by
  rw [State.abandon, State.raiseFault_withFlags]
  rfl

/-- A residue is the same whatever the flags. -/
theorem State.writeResidue_withFlags (s : State) (b : Bool) (d : NatIx) (k : SlotIx) (v : Nat) (c o : Bool) :
    (s.withFlags c o).writeResidue b d k v = (s.writeResidue b d k v).withFlags c o := by
  cases b <;> rfl

/-- A command's effect reads neither flag: started with other flags it does the same, and a flag it does not write keeps
the value it was given (10_state R122, R123). -/
theorem exec_effect_ignores_flags (i : Instr) :
    ∃ f : State → State, (∀ s, exec i s = command i f s) ∧
      ∀ s c o, f (s.withFlags c o) =
        (f s).withFlags (if writesCarry i then (f s).carry else c) (if writesOkf i then (f s).okf else o) := by
  cases i with
  | modload k a =>
    refine ⟨_, fun _ => rfl, fun s c o => ?_⟩
    have hN : ((s.withFlags c o).N a).val = (s.N a).val := rfl
    dsimp only
    rw [hN]
    split <;> rfl
  | modinv d a k =>
    refine ⟨_, fun _ => rfl, fun s c o => ?_⟩
    have hN : ((s.withFlags c o).N a).val = (s.N a).val := rfl
    have hM : (s.withFlags c o).M k = s.M k := rfl
    have hr : (s.withFlags c o).reduced a k = s.reduced a k := rfl
    dsimp only
    rw [hN, hM, hr]
    split
    · split <;> rfl
    · rfl
  | gcd d a b =>
    refine ⟨_, fun _ => rfl, fun s c o => ?_⟩
    have hN (r : NatIx) : ((s.withFlags c o).N r).val = (s.N r).val := rfl
    dsimp only
    rw [hN, hN]
    split <;> rfl
  | modadd | modsub | montmul | tomont | frommont | modmul | modexp | modexps =>
    exact ⟨_, fun _ => rfl, fun s c o => s.writeResidue_withFlags _ _ _ _ c o⟩
  | addc | subb | expand | mov | select | equal | iszero | isone | isminusone | isodd | cand | cor =>
    exact ⟨_, fun _ => rfl, fun _ _ _ => rfl⟩

/-- No command reads a flag: with other flags it answers the same state, but for the flags it does not write. -/
theorem exec_withFlags {t : State} (c o : Bool) (h : exec i s = .next t) :
    exec i (s.withFlags c o) = .next (t.withFlags
      (if writesCarry i = true ∧ check i s = .noFault then t.carry else c)
      (if writesOkf i = true ∧ check i s = .noFault then t.okf else o)) := by
  obtain ⟨f, hexec, hf⟩ := exec_effect_ignores_flags i
  rw [hexec] at h ⊢
  rcases command_cases i f s with ⟨hc, hn⟩ | ⟨hc, hn⟩
  · obtain rfl : (f s).complete = t := by simpa [hn] using h
    rw [command_ok (by rw [check_withFlags, hc]), hf]
    simp [hc, State.withFlags, State.complete]
  · obtain rfl : s.abandon i (check i s) = t := by simpa [hn] using h
    rw [command_fault (by rwa [check_withFlags]), check_withFlags, State.abandon_withFlags]
    simp [hc]

end Sys2Proof.Machine
end

section
/-! What one step can do, case by case: a reset, an idle turn, a host read, a host write, or the pending command. -/

namespace Sys2Proof.Machine

open Sys2Proof.Config

variable {s t : State}

/-! ## Host writes -/

/-- What a write of `v` to the address `addr` makes of the state (20_memory R207, R208, R222; 60_exceptions R601). -/
inductive WriteEffect (s : State) (addr : Addr) (v : Word) : State → Prop where
  | ignored : WriteEffect s addr v s
  | faulted (c : FaultCode) (hc : c ≠ .noFault) : WriteEffect s addr v (s.raiseFault c (busAddr addr) v)
  | softReset (ha : addr = addrOf .ctrl) (hv : v.getLsbD 0 = true) : WriteEffect s addr v s.resetBlock
  | enables : WriteEffect s addr v { s with doneie := v.getLsbD 1, faultie := v.getLsbD 2 }
  | clearDone : WriteEffect s addr v { s with done := false }
  | lastCmd : WriteEffect s addr v { s with lastCmd := v }
  | cmdFault (c : FaultCode) (hc : c ≠ .noFault) :
    WriteEffect s addr v (({ s with lastCmd := v } : State).raiseFault c cmdAddr v)
  | issue (hb : s.busy = false) (hc : s.checkWord v = .noFault) :
    WriteEffect s addr v (({ s with lastCmd := v } : State).latch v)
  | elen (hb : s.busy = false) (hv : v.toNat ≤ EMAXB) : WriteEffect s addr v { s with elen := v }
  | eshort (hb : s.busy = false) : WriteEffect s addr v { s with eshort := v }
  | nat (hb : s.busy = false) (r : NatIx) (x : NatReg) : WriteEffect s addr v (s.setNat r x)

/-- A write the engine owns is the BUSY fault or, while the block is idle, its store. -/
theorem WriteEffect.guardBusy {addr : Addr} {v : Word} {store : State}
    (h : s.busy = false → WriteEffect s addr v store) : WriteEffect s addr v (s.guardBusy addr v store) := by
  rcases s.guardBusy_cases addr v store with ⟨-, hg⟩ | ⟨hb, hg⟩
  · rw [hg]
    exact .faulted .busy (by decide)
  · rw [hg]
    exact h hb

theorem writeCmd_effect (s : State) (addr : Addr) (v : Word) : WriteEffect s addr v (s.writeCmd v) := by
  rcases s.writeCmd_cases v with ⟨-, hw⟩ | ⟨-, -, hw⟩ | ⟨-, -, hc, hw⟩ | ⟨-, hb, hc, hw⟩
  · rw [hw]
    exact .lastCmd
  · rw [hw]
    exact .cmdFault .busy (by decide)
  · rw [hw]
    exact .cmdFault _ hc
  · rw [hw]
    exact .issue hb hc

theorem writeCtrl_effect (s : State) {addr : Addr} (ha : addr = addrOf .ctrl) (v : Word) :
    WriteEffect s addr v (s.writeCtrl v) := by
  unfold State.writeCtrl
  split
  · exact .softReset ha ‹_›
  · exact .enables

theorem writeStatus_effect (s : State) (addr : Addr) (v : Word) : WriteEffect s addr v (s.writeStatus v) := by
  unfold State.writeStatus
  split
  · exact .clearDone
  · exact .ignored

theorem writeElen_effect (hb : s.busy = false) (addr : Addr) (v : Word) :
    WriteEffect s addr v (s.writeElen addr v) := by
  unfold State.writeElen
  split
  · exact .elen hb ‹_›
  · exact .faulted .badlen (by decide)

theorem writeLen_effect (hb : s.busy = false) (addr : Addr) (r : NatIx) (v : Word) :
    WriteEffect s addr v (s.writeLen addr r v) := by
  unfold State.writeLen
  split
  · exact .nat hb r _
  · exact .faulted .badlen (by decide)

theorem writeTarget_effect (s : State) {addr : Addr} (v : Word) (a : Target) (ha : a = .ctrl → addr = addrOf .ctrl) :
    WriteEffect s addr v (s.writeTarget addr v a) := by
  cases a with
  | ctrl => exact writeCtrl_effect s (ha rfl) v
  | status => exact writeStatus_effect s addr v
  | cmd => exact writeCmd_effect s addr v
  | elen => exact .guardBusy fun hb => writeElen_effect hb addr v
  | eshort => exact .guardBusy fun hb => .eshort hb
  | natWord r i => exact .guardBusy fun hb => .nat hb r _
  | natLen r => exact .guardBusy fun hb => writeLen_effect hb addr r v
  | id | faultData | faultAddr | minfo | m0inv | choice | modWord | rrWord | reserved => exact .ignored

theorem hostWrite_effect (s : State) (addr : Addr) (v : Word) : WriteEffect s addr v (s.hostWrite addr v) := by
  unfold State.hostWrite
  split
  · exact writeTarget_effect s v _ (eq_addrOf_ctrl ‹_›)
  · exact .faulted .align (by decide)

/-- No write but a soft reset changes a slot or a choice (10_state R118, R121; 20_memory R202). -/
theorem WriteEffect.keeps_slots_and_choices {addr : Addr} {v : Word} (h : WriteEffect s addr v t)
    (hn : ¬(addr = addrOf .ctrl ∧ v.getLsbD 0 = true)) : (∀ k, t.M k = s.M k) ∧ ∀ c, t.C c = s.C c := by
  cases h with
  | softReset ha hv => exact absurd ⟨ha, hv⟩ hn
  | faulted c => exact ⟨s.raiseFault_M c _ v, s.raiseFault_C c _ v⟩
  | cmdFault c => exact ⟨State.raiseFault_M _ c _ v, State.raiseFault_C _ c _ v⟩
  | ignored | enables | clearDone | lastCmd | issue | elen | eshort | nat => exact ⟨fun _ => rfl, fun _ => rfl⟩

theorem hostRead_keeps_slots_and_choices (s : State) (addr : Addr) :
    (∀ k, (s.hostRead addr).M k = s.M k) ∧ ∀ c, (s.hostRead addr).C c = s.C c := by
  rcases s.hostRead_cases addr with ⟨v, n, hrd⟩ | hrd <;> rw [hrd] <;> simp

/-! ## The step -/

/-- `s` with the environment's next move taken off the list, where there is one. -/
def State.popEvent (s : State) : State := { s with events := s.events.tail }

theorem State.popEvent_of_nil (h : s.events = []) : s.popEvent = s := by
  rw [State.popEvent, h, List.tail_nil, ← h]

theorem State.popEvent_of_cons {e : Event} {rest : List Event} (h : s.events = e :: rest) :
    s.popEvent = { s with events := rest } := by
  rw [State.popEvent, h, List.tail_cons]

/-- What a step makes of the state (20_memory R223; 60_exceptions R611; 70_reset_and_hazards R701). -/
inductive StepEffect (s : State) : State → Prop where
  | reset (h : s.resetsNext = true) (u : State) : StepEffect s u.resetBlock
  | idle (hr : s.rstIn = false) : StepEffect s s.popEvent
  | read (hr : s.rstIn = false) (addr : Addr) : StepEffect s (s.popEvent.hostRead addr)
  | write (hr : s.rstIn = false) (addr : Addr) (v : Word) (hn : ¬(addr = addrOf .ctrl ∧ v.getLsbD 0 = true)) :
    StepEffect s (s.popEvent.hostWrite addr v)
  | command (hr : s.rstIn = false) (hn : s.engineNext = true) (i : Instr) (hd : decodeCommand s.pend = .ok i)
    (t : State) (he : exec i s.popEvent = .next t) : StepEffect s t

/-- A move while `rst` is high leaves a reset block (70_reset_and_hazards R701). -/
theorem State.heldInReset_isReset (s : State) (e : Event) : ∃ u : State, s.heldInReset e = u.resetBlock := by
  cases e with
  | read addr =>
    simp only [State.heldInReset]
    split
    · exact ⟨s.answer (s.resetBlock.peek (portTarget addr)), rfl⟩
    · exact ⟨s.answer 0, rfl⟩
  | write | engine => exact ⟨s, rfl⟩
  | rst level => exact ⟨{ s with rstIn := level }, rfl⟩

theorem engineStep_effect (hr : s.rstIn = false) (hturn : s.busy = true → s.engineNext = true)
    (h : engineStep s.popEvent = .next t) : StepEffect s t := by
  rcases engineStep_cases s.popEvent with ⟨-, hs⟩ | ⟨hb, i, hd, hs⟩ | ⟨-, -, hs⟩ <;> rw [hs] at h
  · cases h
    exact .idle hr
  · exact .command hr (hturn hb) i hd t h
  · cases h

theorem liveEvent_effect {e : Event} {rest : List Event} (hr : s.rstIn = false) (he : s.events = e :: rest)
    (h : liveEvent s.popEvent e = .next t) : StepEffect s t := by
  cases e with
  | read addr =>
    cases h
    exact .read hr addr
  | write addr v =>
    cases h
    by_cases hn : addr = addrOf .ctrl ∧ v.getLsbD 0 = true
    · obtain ⟨rfl, hv⟩ := hn
      have hw : s.popEvent.hostWrite (addrOf .ctrl) v = s.popEvent.resetBlock := by
        rw [State.hostWrite_addrOf]
        simp only [State.writeTarget, State.writeCtrl, hv, ↓reduceIte]
      rw [hw]
      exact .reset (by simp [State.resetsNext, he, hv]) _
    · exact .write hr addr v hn
  | engine => exact engineStep_effect hr (fun hb => by simp [State.engineNext, hr, hb, he]) h
  | rst level =>
    cases level with
    | false =>
      cases h
      exact .idle hr
    | true =>
      cases h
      exact .reset (by simp [State.resetsNext, he]) { s.popEvent with rstIn := true }

/-- Every step is one of the cases of `StepEffect`. -/
theorem step_effect (h : step s = .next t) : StepEffect s t := by
  rcases step_cases s with ⟨hr, -, hs⟩ | ⟨hr, he, hs⟩ | ⟨e, rest, hr, -, hs⟩ | ⟨e, rest, hr, he, hs⟩ <;> rw [hs] at h
  · cases h
    exact .reset (by simp [State.resetsNext, hr]) s
  · rw [← State.popEvent_of_nil he] at h
    exact engineStep_effect hr (fun hb => by simp [State.engineNext, hr, hb, he]) h
  · obtain ⟨u, hu⟩ := State.heldInReset_isReset { s with events := rest } e
    cases h
    rw [hu]
    exact .reset (by simp [State.resetsNext, hr]) u
  · rw [← State.popEvent_of_cons he] at h
    exact liveEvent_effect hr he h

/-! ## Slots and choices across a step -/

/-- What `exec` leaves of slots and choices: all but its destinations. -/
theorem exec_keeps_slots_and_choices {i : Instr} (h : exec i s = .next t) :
    (∀ k, slotDest i ≠ some k → t.M k = s.M k) ∧ ∀ c, choiceDest i ≠ some c → t.C c = s.C c := by
  rcases exec_cases i s with ⟨-, u, hu, hf⟩ | ⟨-, hu⟩ <;> rw [hu] at h <;> cases h
  · exact ⟨hf.M, hf.C⟩
  · simp

theorem eq_modload_of_slotDest {i : Instr} {k : SlotIx} (h : slotDest i = some k) : ∃ a, i = .modload k a := by
  cases i with
  | modload j a =>
    cases h
    exact ⟨a, rfl⟩
  | _ => cases h

/-- A step resets the block, leaves every slot and choice, or executes the pending command. -/
theorem StepEffect.slots_and_choices (h : StepEffect s t) :
    s.resetsNext = true ∨ ((∀ k, t.M k = s.M k) ∧ ∀ c, t.C c = s.C c) ∨
    (s.engineNext = true ∧ ∃ i, decodeCommand s.pend = .ok i ∧ exec i s.popEvent = .next t) := by
  cases h with
  | reset h => exact .inl h
  | idle => exact .inr (.inl ⟨fun _ => rfl, fun _ => rfl⟩)
  | read _ addr => exact .inr (.inl (hostRead_keeps_slots_and_choices _ addr))
  | write _ addr v hn => exact .inr (.inl ((hostWrite_effect _ addr v).keeps_slots_and_choices hn))
  | command _ hn i hd t he => exact .inr (.inr ⟨hn, i, hd, he⟩)

end Sys2Proof.Machine
end

section
/-! The invariant of the machine, clause by clause: what MODLOAD leaves in a slot, what the commands leave in a choice,
and what each case of a step does to the rest. -/

namespace Sys2Proof.Machine

open Sys2Proof.Config

variable {s t : State}

/-! ## What MODLOAD leaves in a slot -/

theorem minimalLen_pos {v : Nat} (h : v ≠ 0) : 0 < (minimalLen v).val := by
  have hb : 0 < bitlen v := by simp [bitlen, h]
  simp only [minimalLen, W, NMAX]
  omega

/-- The slot MODLOAD makes of an accepted value holds that modulus with its constants (41_nat_and_modulus R403). -/
theorem Slot.load_holds {v : Nat} (h2 : 2 ≤ v) (hv : v < 2 ^ (W * NMAX)) : (Slot.load v).Holds v := by
  have hfit : v < 2 ^ (W * (minimalLen v).val) := lt_radix_minimalLen hv
  have habove (x : Nat) (i : Fin NMAX) (hi : (minimalLen v).val ≤ i.val) : (wordsOf x (minimalLen v))[i] = 0 := by
    simp [Nat.not_lt.mpr hi]
  refine ⟨rfl, ?_, rfl, rfl, minimalLen_val hv, habove v, ?_⟩
  · exact (wordsVal_take_wordsOf v _).trans (Nat.mod_eq_of_lt hfit)
  · by_cases hodd : v % 2 = 1
    · have hm0 : (Slot.load v).m0inv = negInvWord v := if_pos (decide_eq_true hodd)
      have hrr : (Slot.load v).rr = wordsOf ((2 ^ (W * (minimalLen v).val)) ^ 2 % v) (minimalLen v) :=
        if_pos (decide_eq_true hodd)
      have hw0 : (wordsOf v (minimalLen v))[0] = BitVec.ofNat 64 v := by
        simp [wordAt, minimalLen_pos (show v ≠ 0 by omega)]
      rw [if_pos hodd, Slot.rrval, hrr, hm0]
      refine ⟨(congrArg (· * negInvWord v) hw0).trans (negInvWord_spec hodd), ?_, habove _⟩
      exact (wordsVal_take_wordsOf _ _).trans (Nat.mod_eq_of_lt ((Nat.mod_lt _ (by omega)).trans hfit))
    · rw [if_neg hodd]
      simp [Slot.load, hodd]

theorem Slot.empty_wf : Slot.empty.Wf := by
  rw [Slot.Wf, if_neg (show ¬Slot.empty.valid = true by decide)]

theorem Slot.load_wf {v : Nat} (h2 : 2 ≤ v) (hv : v < 2 ^ (W * NMAX)) : (Slot.load v).Wf := by
  have h := Slot.load_holds h2 hv
  have hm : (Slot.load v).mval = v := h.2.1
  rw [Slot.Wf, if_pos h.1, hm]
  exact ⟨h2, h⟩

/-- MODLOAD leaves its slot empty or holding a modulus, whatever it held (10_state R112 to R118). -/
theorem exec_modload_slot_wf {k : SlotIx} {a : NatIx} (h : exec (.modload k a) s = .next t) : (t.M k).Wf := by
  rw [execModload_ok k a rfl] at h
  cases h
  rw [State.complete_M]
  dsimp only
  split
  · exact (s.setSlot_M_same k _).symm ▸ Slot.empty_wf
  · exact (s.setSlot_M_same k _).symm ▸ Slot.load_wf (by omega) (s.N a).val_lt_max

/-! ## What a command leaves in a choice -/

/-- A choice is 0 or ONES (10_state R121). -/
def IsChoice (v : Word) : Prop := v = 0 ∨ v = ones

theorem isChoice_choiceOf (p : Bool) : IsChoice (choiceOf p) := by
  cases p
  · exact .inl rfl
  · exact .inr rfl

theorem IsChoice.and {v w : Word} (hv : IsChoice v) (hw : IsChoice w) : IsChoice (v &&& w) := by
  rcases hv with rfl | rfl
  · exact .inl BitVec.zero_and
  · rw [ones, BitVec.allOnes_and]
    exact hw

theorem IsChoice.or {v w : Word} (hv : IsChoice v) (hw : IsChoice w) : IsChoice (v ||| w) := by
  rcases hv with rfl | rfl
  · exact (BitVec.zero_or (x := w)).symm ▸ hw
  · exact .inr BitVec.allOnes_or

/-- A command that writes a choice puts 0 or ONES there, or the and, or of two choices. -/
theorem exec_effect_isChoice {i : Instr} {c : ChoiceIx} (hi : choiceDest i = some c) :
    ∃ f : State → State, (∀ s, exec i s = command i f s) ∧ ∀ s, (∀ j, IsChoice (s.C j)) → IsChoice ((f s).C c) := by
  cases i with
  | equal | iszero | isone | isminusone | isodd =>
    cases hi
    refine ⟨_, fun _ => rfl, fun s _ => ?_⟩
    rw [State.setChoice_C_same]
    exact isChoice_choiceOf _
  | cand k ka kb =>
    cases hi
    refine ⟨_, fun _ => rfl, fun s hs => ?_⟩
    rw [State.setChoice_C_same]
    exact (hs ka).and (hs kb)
  | cor k ka kb =>
    cases hi
    refine ⟨_, fun _ => rfl, fun s hs => ?_⟩
    rw [State.setChoice_C_same]
    exact (hs ka).or (hs kb)
  | _ => cases hi

/-- Every command keeps the choices 0 or ONES. -/
theorem exec_keeps_isChoice {i : Instr} (hs : ∀ c, IsChoice (s.C c)) (h : exec i s = .next t) (c : ChoiceIx) :
    IsChoice (t.C c) := by
  by_cases hi : choiceDest i = some c
  · obtain ⟨f, hexec, hf⟩ := exec_effect_isChoice hi
    rw [hexec] at h
    rcases command_cases i f s with ⟨-, hn⟩ | ⟨-, hn⟩ <;> rw [hn] at h <;> cases h
    · exact hf s hs
    · exact (State.abandon_C ..).symm ▸ hs c
  · rw [(exec_keeps_slots_and_choices h).2 c hi]
    exact hs c

/-- Every step keeps the choices 0 or ONES (10_state R121). -/
theorem StepEffect.isChoice (h : StepEffect s t) (hs : ∀ c, IsChoice (s.C c)) (c : ChoiceIx) : IsChoice (t.C c) := by
  cases h with
  | reset h u => exact .inl (u.resetBlock_C c)
  | idle => exact hs c
  | read _ addr => exact ((hostRead_keeps_slots_and_choices s.popEvent addr).2 c).symm ▸ hs c
  | write _ addr v hn =>
    exact (((hostWrite_effect s.popEvent addr v).keeps_slots_and_choices hn).2 c).symm ▸ hs c
  | command _ _ i _ _ he => exact exec_keeps_isChoice (s := s.popEvent) hs he c

/-- Every step keeps the slots as MODLOAD or reset leaves them (10_state R112 to R118). -/
theorem StepEffect.slot_wf (h : StepEffect s t) (hs : ∀ k, (s.M k).Wf) (k : SlotIx) : (t.M k).Wf := by
  cases h with
  | reset h u => exact (u.resetBlock_M k).symm ▸ Slot.empty_wf
  | idle => exact hs k
  | read _ addr => exact ((hostRead_keeps_slots_and_choices s.popEvent addr).1 k).symm ▸ hs k
  | write _ addr v hn =>
    exact (((hostWrite_effect s.popEvent addr v).keeps_slots_and_choices hn).1 k).symm ▸ hs k
  | command _ _ i _ _ he =>
    by_cases hi : slotDest i = some k
    · obtain ⟨a, rfl⟩ := eq_modload_of_slotDest hi
      exact exec_modload_slot_wf he
    · exact ((exec_keeps_slots_and_choices he).1 k hi).symm ▸ hs k

/-! ## The control part of the invariant -/

/-- The clauses of the invariant that speak of neither slots nor choices. -/
structure State.ControlOk (s : State) : Prop where
  elen : s.elen.toNat ≤ EMAXB
  clear : s.fault = false → s.faultCode = .noFault ∧ s.faultAddr = 0 ∧ s.faultData = 0
  recorded : s.fault = true → s.faultCode ≠ .noFault
  pending : s.busy = true → s.done = false ∧ s.pendChecked = true
  held : s.rstIn = true → s = s.resetBlock

theorem inv_iff : s.Inv ↔ (∀ k, (s.M k).Wf) ∧ (∀ c, IsChoice (s.C c)) ∧ s.ControlOk :=
  ⟨fun ⟨hM, hC, he, hc, hr, hp, hh⟩ => ⟨hM, hC, he, hc, hr, hp, hh⟩,
    fun ⟨hM, hC, he, hc, hr, hp, hh⟩ => ⟨hM, hC, he, hc, hr, hp, hh⟩⟩

/-- A reset block meets the invariant, whatever its environment (70_reset_and_hazards R701). -/
theorem State.resetBlock_controlOk (u : State) : u.resetBlock.ControlOk where
  elen := Nat.zero_le EMAXB
  clear _ := ⟨rfl, rfl, rfl⟩
  recorded := nofun
  pending := nofun
  held _ := rfl

theorem State.held_of_low (hr : s.rstIn = false) : s.rstIn = true → s = s.resetBlock :=
  fun h => absurd h (by simp [hr])

theorem State.ControlOk.popEvent (h : s.ControlOk) (hr : s.rstIn = false) : s.popEvent.ControlOk :=
  { h with held := State.held_of_low hr }

/-- Raising a fault records a code, or leaves the record there is (60_exceptions R603). -/
theorem State.ControlOk.raiseFault (h : s.ControlOk) (hr : s.rstIn = false) {c : FaultCode} (hc : c ≠ .noFault)
    (a v : Word) : (s.raiseFault c a v).ControlOk := by
  cases hf : s.fault
  · rw [State.raiseFault_of_clear hf]
    exact { h with clear := nofun, recorded := fun _ => hc, held := State.held_of_low hr }
  · rw [State.raiseFault_of_fault hf]
    exact h

theorem State.ControlOk.hostRead (h : s.ControlOk) (hr : s.rstIn = false) (addr : Addr) :
    (s.hostRead addr).ControlOk := by
  rcases s.hostRead_cases addr with ⟨v, n, hrd⟩ | hrd <;> rw [hrd]
  · exact { h with held := State.held_of_low hr }
  · exact { h.raiseFault hr (show FaultCode.align ≠ .noFault by decide) (busAddr addr) 0 with
      held := State.held_of_low (by simp [hr]) }

theorem decodeCommand_of_decode {v : Word} {i : Instr} (h : decode v = .ok i) :
    decodeCommand (v.extractLsb' 0 32) = .ok i := by
  unfold decode at h
  split at h
  · cases h
  · exact h

/-- `Check` passes a word exactly when it is a command whose checks pass (60_exceptions R602). -/
theorem State.checkWord_eq_noFault (v : Word) :
    s.checkWord v = .noFault ↔ ∃ i, decode v = .ok i ∧ check i s = .noFault := by
  unfold State.checkWord
  cases decode v <;> simp

/-- An issued command passes its checks in the state it is issued in (60_exceptions R601). -/
theorem State.latch_pendChecked {v : Word} (hc : s.checkWord v = .noFault) : (s.latch v).pendChecked = true := by
  obtain ⟨i, hd, hi⟩ := (s.checkWord_eq_noFault v).1 hc
  have hl : check i (s.latch v) = .noFault := hi
  simp [State.pendChecked, decodeCommand_of_decode hd, hl]

theorem WriteEffect.controlOk {addr : Addr} {v : Word} (he : WriteEffect s addr v t) (h : s.ControlOk)
    (hr : s.rstIn = false) : t.ControlOk := by
  have hidle (hb : s.busy = false) (hb' : s.busy = true) : False := by simp [hb] at hb'
  have hcmd : ({ s with lastCmd := v } : State).ControlOk := { h with held := State.held_of_low hr }
  cases he with
  | ignored => exact h
  | faulted c hc => exact h.raiseFault hr hc _ _
  | softReset => exact s.resetBlock_controlOk
  | enables => exact { h with held := State.held_of_low hr }
  | clearDone => exact { h with pending := fun hb => ⟨rfl, (h.pending hb).2⟩, held := State.held_of_low hr }
  | lastCmd => exact hcmd
  | cmdFault c hc => exact hcmd.raiseFault hr hc _ _
  | issue _ hc =>
    exact { h with pending := fun _ => ⟨rfl, State.latch_pendChecked (s := { s with lastCmd := v }) hc⟩,
                   held := State.held_of_low hr }
  | elen hb hv => exact { h with elen := hv, pending := fun hb' => (hidle hb hb').elim, held := State.held_of_low hr }
  | eshort | nat hb => exact { h with pending := fun hb' => (hidle ‹_› hb').elim, held := State.held_of_low hr }

/-- A command keeps the control part: it is not pending any more, and a fault it records has a code. -/
theorem State.ControlOk.exec {i : Instr} (h : s.ControlOk) (hr : s.rstIn = false) (he : exec i s = .next t) :
    t.ControlOk := by
  rcases exec_cases i s with ⟨-, u, hu, hf⟩ | ⟨hc, hu⟩ <;> rw [hu] at he <;> cases he
  · obtain ⟨nats, slots, choices, carry, okf, draws, rfl⟩ := hf.exists_eq
    exact { h with pending := nofun, held := State.held_of_low hr }
  · exact { h.raiseFault hr hc cmdAddr (encode i) with
      pending := nofun, held := State.held_of_low (by simp [hr]) }

theorem StepEffect.controlOk (he : StepEffect s t) (h : s.ControlOk) : t.ControlOk := by
  cases he with
  | reset _ u => exact u.resetBlock_controlOk
  | idle hr => exact h.popEvent hr
  | read hr addr => exact (h.popEvent hr).hostRead hr addr
  | write hr addr v => exact (hostWrite_effect s.popEvent addr v).controlOk (h.popEvent hr) hr
  | command hr _ i _ _ he => exact (h.popEvent hr).exec hr he

/-- A step keeps the invariant. -/
theorem step_keeps_inv (h : s.Inv) (hstep : step s = .next t) : t.Inv := by
  obtain ⟨hM, hC, hctl⟩ := inv_iff.1 h
  have he := step_effect hstep
  exact inv_iff.2 ⟨he.slot_wf hM, he.isChoice hC, he.controlOk hctl⟩

/-- A reset block meets the invariant, whatever its environment (70_reset_and_hazards R701). -/
theorem State.resetBlock_inv (u : State) : u.resetBlock.Inv :=
  inv_iff.2 ⟨fun k => (u.resetBlock_M k).symm ▸ Slot.empty_wf, fun c => .inl (u.resetBlock_C c), u.resetBlock_controlOk⟩

end Sys2Proof.Machine

open Sys2Proof.Machine

/-- Settles O56, clause by clause over what a step can do: slots and choices change by MODLOAD, by their commands and by
reset alone, and each host access and each command keeps the control part. -/
theorem everyStepKeepsTheInvariant : Obligations.EveryStepKeepsTheInvariant := fun _ _ => step_keeps_inv

/-- Settles O55: `State.reset` is a reset block. -/
theorem invariantHoldsAtReset : Obligations.InvariantHoldsAtReset := State.reset.resetBlock_inv

/-- Settles O53: the commands that write a choice put 0 or ONES there, and nothing but them and a reset writes one. -/
theorem choicesStayZeroOrOnes : Obligations.ChoicesStayZeroOrOnes := by
  refine ⟨fun s t hs h => (step_effect h).isChoice hs, fun s t c h hc => ?_⟩
  rcases (step_effect h).slots_and_choices with hr | ⟨-, hC⟩ | ⟨hn, i, hd, he⟩
  · exact .inl hr
  · exact absurd (hC c) hc
  · exact .inr ⟨hn, i, hd, by_contra fun hi => hc ((exec_keeps_slots_and_choices he).2 c hi)⟩

/-- Settles O54: MODLOAD is the one command with a slot among its destinations, and no host access writes a slot. -/
theorem slotsChangeOnlyByModload : Obligations.SlotsChangeOnlyByModload := by
  intro s t k h hk
  rcases (step_effect h).slots_and_choices with hr | ⟨hM, -⟩ | ⟨hn, i, hd, he⟩
  · exact .inl hr
  · exact absurd (hM k) hk
  · have hi : slotDest i = some k := by_contra fun hi => hk ((exec_keeps_slots_and_choices he).1 k hi)
    obtain ⟨a, rfl⟩ := eq_modload_of_slotDest hi
    exact .inr ⟨hn, a, hd⟩
end

section
/-! The STATUS word field by field, CTRL after a reset, and the two flags CARRY and OKF. -/

namespace Sys2Proof.Machine

open Sys2Proof.Config

theorem extractLsb'_eq_zero {w : Nat} {x : BitVec w} {a n : Nat} (h : ∀ j, j < n → x.getLsbD (a + j) = false) :
    x.extractLsb' a n = 0 := by
  apply BitVec.eq_of_getLsbD_eq
  intro j hj
  simp [h j hj]

variable (s : State)

theorem State.choiceBits_getLsbD (c : ChoiceIx) : s.choiceBits.getLsbD c = (s.C c).getLsbD 0 := by
  unfold State.choiceBits
  repeat rw [BitVec.getLsbD_append]
  fin_cases c <;> simp

theorem State.statusWord_choice (c : ChoiceIx) : s.statusWord.getLsbD (8 + c) = (s.C c).getLsbD 0 := by
  rw [← s.choiceBits_getLsbD c, State.statusWord, State.statusLayout_getLsbD]
  repeat rw [if_neg (by omega)]
  rw [if_pos (by omega), Nat.add_sub_cancel_left]

theorem State.statusWord_code : s.statusWord.extractLsb' 16 8 = s.faultCode.code := by
  apply BitVec.eq_of_getLsbD_eq
  intro j hj
  rw [BitVec.getLsbD_extractLsb', State.statusWord, State.statusLayout_getLsbD, decide_eq_true hj, Bool.true_and]
  repeat rw [if_neg (by omega)]
  rw [if_pos (by omega), Nat.add_sub_cancel_left]

/-- The reserved bits of STATUS read 0 (10_state R129). -/
theorem State.statusWord_reserved {a n : Nat} (h : 5 ≤ a ∧ a + n ≤ 8 ∨ 12 ≤ a ∧ a + n ≤ 16 ∨ 24 ≤ a) :
    s.statusWord.extractLsb' a n = 0 := by
  refine extractLsb'_eq_zero fun j hj => ?_
  rw [State.statusWord, State.statusLayout_getLsbD]
  repeat rw [if_neg (by omega)]

/-- The five low bits of STATUS (10_state R129). -/
theorem State.statusWord_low : s.statusWord.getLsbD 0 = s.busy ∧ s.statusWord.getLsbD 1 = s.done ∧
    s.statusWord.getLsbD 2 = s.fault ∧ s.statusWord.getLsbD 3 = s.okf ∧ s.statusWord.getLsbD 4 = s.carry := by
  refine ⟨?_, ?_, ?_, ?_, ?_⟩ <;> rw [State.statusWord, State.statusLayout_getLsbD] <;> simp

theorem State.statusWord_okf : s.statusWord.getLsbD 3 = s.okf := s.statusWord_low.2.2.2.1

theorem State.statusWord_carry : s.statusWord.getLsbD 4 = s.carry := s.statusWord_low.2.2.2.2

theorem State.resetBlock_ctrlWord : s.resetBlock.ctrlWord = 0 := by
  show State.reset.ctrlWord = 0
  decide

/-! ## The flags of the commands that write them -/

variable {s}

/-- CARRY is kept by a command that does not write it, and by one a check rejects (10_state R122). -/
theorem exec_keeps_carry {i : Instr} {t : State} (h : exec i s = .next t)
    (hi : ¬(writesCarry i = true ∧ check i s = .noFault)) : t.carry = s.carry := by
  rcases exec_cases i s with ⟨hc, u, hu, hf⟩ | ⟨-, hu⟩ <;> rw [hu] at h <;> cases h
  · exact hf.carry (by simpa [hc] using hi)
  · exact s.abandon_carry i _

/-- OKF is kept by a command that does not write it, and by one a check rejects (10_state R123). -/
theorem exec_keeps_okf {i : Instr} {t : State} (h : exec i s = .next t)
    (hi : ¬(writesOkf i = true ∧ check i s = .noFault)) : t.okf = s.okf := by
  rcases exec_cases i s with ⟨hc, u, hu, hf⟩ | ⟨-, hu⟩ <;> rw [hu] at h <;> cases h
  · exact hf.okf (by simpa [hc] using hi)
  · exact s.abandon_okf i _

/-- The carry out of two registers of one length (42_word_adder R421). -/
theorem addWords_carry {x y : NatReg} (hlen : x.len = y.len) :
    (addWords x.words y.words false).2 = decide (2 ^ (W * x.len.val) ≤ x.val + y.val) := by
  obtain ⟨hl, hv⟩ := addWords_spec x.words y.words false (by simp [hlen])
  have hlt := wordsVal_lt (addWords x.words y.words false).1
  rw [hl, NatReg.length_words] at hlt
  rw [NatReg.length_words] at hv
  change _ = x.val + y.val + 0 at hv
  cases hc : (addWords x.words y.words false).2 <;> rw [hc] at hv <;> simp at hv ⊢ <;> omega

/-- The borrow out of two registers of one length (42_word_adder R422). -/
theorem subWords_borrow {x y : NatReg} (hlen : x.len = y.len) :
    (subWords x.words y.words false).2 = decide (x.val < y.val) := by
  obtain ⟨hl, hv⟩ := subWords_spec x.words y.words false (by simp [hlen])
  have hlt := wordsVal_lt (subWords x.words y.words false).1
  rw [hl, NatReg.length_words] at hlt
  have hlt' : (wordsVal (subWords x.words y.words false).1 : Int) < 2 ^ (W * x.len.val) := by exact_mod_cast hlt
  rw [NatReg.length_words] at hv
  change _ = (x.val : Int) - y.val - 0 at hv
  cases hc : (subWords x.words y.words false).2 <;> rw [hc] at hv <;> simp at hv ⊢ <;> omega

theorem check_addc {a b : NatIx} (d : NatIx) (hlen : (s.N a).len = (s.N b).len) : check (.addc d a b) s = .noFault :=
  (check_eq_noFault _ _).2 ⟨nofun, decide_eq_true hlen, rfl⟩

theorem check_subb {a b : NatIx} (d : NatIx) (hlen : (s.N a).len = (s.N b).len) : check (.subb d a b) s = .noFault :=
  (check_eq_noFault _ _).2 ⟨nofun, decide_eq_true hlen, rfl⟩

end Sys2Proof.Machine
end

section
/-! The registers of the host port and the flags: what each write stores and each read returns, the frame of a command,
and who writes CARRY and OKF. -/

open Sys2Proof Sys2Proof.Machine Sys2Proof.Config

/-! ## The registers of the host port -/

/-- Settles O20: at a register's own address the write is `writeWord` or `writeLen`, a store of `N[r]` alone. -/
theorem hostWritesNatRegisters : Obligations.HostWritesNatRegisters := by
  intro s r i v hb
  have hword : s.hostWrite (addrOf (.natWord r i)) v = s.writeWord r i v := by
    simp [State.hostWrite_addrOf, State.writeTarget, State.guardBusy, hb]
  have hlen : s.hostWrite (addrOf (.natLen r)) v = s.writeLen (addrOf (.natLen r)) r v := by
    simp [State.hostWrite_addrOf, State.writeTarget, State.guardBusy, hb]
  have hN : (s.writeWord r i v).N r = { s.N r with w := (s.N r).w.set i v } := s.setNat_N_same r _
  refine ⟨⟨_, hword, rfl, fun q hq => s.setNat_N_ne r q _ hq, ?_, ?_, fun j hj => ?_⟩, fun hv => ?_, fun hv => ?_⟩
  · rw [hN]
  · simp [hN]
  · have hij : i.val ≠ j.val := fun h => hj (Fin.ext h.symm)
    simp [hN, Vector.getElem_set_ne, hij]
  · have hlt : v.toNat < NMAX + 1 := Nat.lt_succ_of_le hv
    have hstore : s.writeLen (addrOf (.natLen r)) r v = s.setNat r { s.N r with len := ⟨v.toNat, hlt⟩ } := dif_pos hlt
    refine ⟨_, hlen.trans hstore, rfl, fun q hq => s.setNat_N_ne r q _ hq, ?_, ?_⟩ <;> rw [State.setNat_N_same]
  · rw [hlen, State.writeLen, dif_neg (by omega)]
    rfl

/-- Settles O21: BUSY is checked before the range, and both registers read exactly whatever BUSY is. -/
theorem exponentRegisterWrites : Obligations.ExponentRegisterWrites := by
  intro s v
  have helen : s.hostWrite (addrOf .elen) v = s.guardBusy (addrOf .elen) v (s.writeElen (addrOf .elen) v) :=
    s.hostWrite_addrOf .elen v
  have heshort : s.hostWrite (addrOf .eshort) v = s.guardBusy (addrOf .eshort) v { s with eshort := v } :=
    s.hostWrite_addrOf .eshort v
  refine ⟨fun hb hv => ?_, fun hb hv => ?_, fun hb => ?_, fun hb => ⟨?_, ?_⟩, s.hostRead_exact rfl (by decide),
    s.hostRead_exact rfl (by decide), rfl, rfl⟩
  · rw [helen, State.guardBusy, if_neg (by simp [hb]), State.writeElen, if_pos hv]
  · rw [helen, State.guardBusy, if_neg (by simp [hb]), State.writeElen, if_neg (by omega)]
    rfl
  · rw [heshort, State.guardBusy, if_neg (by simp [hb])]
  · rw [helen, State.guardBusy, if_pos hb]
    rfl
  · rw [heshort, State.guardBusy, if_pos hb]
    rfl

/-- Settles O22: the two branches of `writeCtrl`, and the CTRL word bit by bit. -/
theorem ctrlWritesEnablesOrResets : Obligations.CtrlWritesEnablesOrResets := by
  refine ⟨fun s v => ?_, rfl, rfl⟩
  have hctrl : s.hostWrite (addrOf .ctrl) v = s.writeCtrl v := s.hostWrite_addrOf .ctrl v
  rw [hctrl]
  refine ⟨fun hv => ?_, fun hv => ?_, s.hostRead_exact rfl (by decide), s.ctrlWord_getLsbD, rfl⟩
  · have hreset : s.writeCtrl v = s.resetBlock := if_pos hv
    rw [hreset]
    exact ⟨rfl, State.resetBlock_ctrlWord s⟩
  · exact if_neg (by rw [hv]; decide)

/-- Settles O23: each field of STATUS is read off the bits of `statusLayout`. -/
theorem statusBitsAndDoneClear : Obligations.StatusBitsAndDoneClear := by
  refine ⟨fun p hp s hs => ?_, fun s v => ?_⟩
  · have hcodes : ∀ p ∈ [(FaultCode.noFault, 0x00#8), (.illegal, 0x01#8), (.nomod, 0x02#8), (.even, 0x03#8),
        (.size, 0x04#8), (.explen, 0x05#8), (.busy, 0x10#8), (.badlen, 0x11#8), (.align, 0x12#8)], p.1.code = p.2 := by
      decide
    rw [s.statusWord_code, hs, hcodes p hp]
  · obtain ⟨hbusy, hdone, hfault, hokf, hcarry⟩ := s.statusWord_low
    exact ⟨hbusy, hdone, hfault, hokf, hcarry, s.statusWord_reserved (by omega), s.statusWord_choice,
      s.statusWord_reserved (by omega), s.statusWord_code, s.statusWord_reserved (by omega),
      s.hostWrite_addrOf .status v, s.hostRead_idle .status⟩

/-- Settles O24: every branch of `writeCmd` stores LASTCMD first, and the branch that passes every check latches. -/
theorem cmdReadsTheLastWrite : Obligations.CmdReadsTheLastWrite := by
  refine ⟨fun s v => ?_, rfl⟩
  have hcmd : s.hostWrite (addrOf .cmd) v = s.writeCmd v := s.hostWrite_addrOf .cmd v
  rw [hcmd]
  refine ⟨?_, s.hostRead_exact rfl (by decide), fun hf hb hc => ?_⟩
  · rcases s.writeCmd_cases v with ⟨-, hw⟩ | ⟨-, -, hw⟩ | ⟨-, -, -, hw⟩ | ⟨-, -, -, hw⟩ <;> rw [hw] <;> simp
  · have hw : s.writeCmd v = ({ s with lastCmd := v } : State).latch v := by simp [State.writeCmd, hf, hb, hc]
    rw [hw]
    exact ⟨rfl, rfl⟩

/-- Settles O25: ID is a constant, and no BUSY rule touches its read. -/
theorem idIdentifiesTheBlock : Obligations.IdIdentifiesTheBlock :=
  ⟨by decide, by decide, by decide, by decide, by decide, by decide, by decide, by decide,
    fun s => s.hostRead_exact rfl (by decide)⟩

/-- Settles O26: `irq` is that Boolean function, and every flag in it is 0 after reset. -/
theorem irqIsALevel : Obligations.IrqIsALevel := ⟨fun s => by simp [State.irq], rfl⟩

/-- Settles O27: the three register files are read by index from the reset state, the rest field by field. -/
theorem resetValues : Obligations.ResetValues := by
  refine ⟨⟨fun r => ?_, fun k => ?_, State.reset_C, rfl, rfl, State.reset.resetBlock_ctrlWord, rfl, rfl, by decide, rfl,
    rfl, rfl, rfl, rfl, rfl, rfl, rfl, rfl, rfl, by decide, rfl⟩, fun r => ?_⟩
  · rw [State.reset_N]
    decide
  · rw [State.reset_M]
    decide
  · rw [State.reset_N]
    decide

/-! ## The frame of a command and the flags -/

/-- Settles O49: a command that passes its checks is an effect within its frame, completed; a rejected one is
`abandon`. -/
theorem commandFrame : Obligations.CommandFrame := by
  intro i s t h
  rcases exec_cases i s with ⟨hc, u, hu, hf⟩ | ⟨hc, hu⟩ <;> rw [hu] at h <;> cases h
  · obtain ⟨nats, slots, choices, carry, okf, draws, rfl⟩ := hf.exists_eq
    exact ⟨hf.N, hf.M, hf.C, hf.carry, hf.okf, rfl, rfl, rfl, rfl, rfl, rfl, rfl, rfl, rfl, rfl,
      fun _ => ⟨rfl, rfl, rfl, rfl, rfl⟩, fun hn => absurd hc hn⟩
  · simp [hc]

/-- Settles O51: the ripple adder's carry and borrow, the frame, and that no command reads a flag. -/
theorem carryIsWrittenByTheAdderAlone : Obligations.CarryIsWrittenByTheAdderAlone := by
  refine ⟨fun s t d a b hlen => ⟨fun h => ?_, fun h => ?_⟩, fun i s t h hi => ?_, fun i s t c h => ?_,
    fun s => s.statusWord_carry, rfl⟩
  · rw [execAddc_ok d a b (check_addc d hlen)] at h
    cases h
    exact addWords_carry hlen
  · rw [execSubb_ok d a b (check_subb d hlen)] at h
    cases h
    exact subWords_borrow hlen
  · exact exec_keeps_carry h (by simp [hi])
  · have hokf : (if writesOkf i = true ∧ check i s = .noFault then t.okf else s.okf) = t.okf := by
      split
      · rfl
      · exact (exec_keeps_okf h ‹_›).symm
    have hflags := exec_withFlags c s.okf h
    rwa [hokf] at hflags

/-- Settles O52: the three writers by their rules, the frame, and that no command reads a flag. -/
theorem okfIsWrittenByThreeCommands : Obligations.OkfIsWrittenByThreeCommands := by
  refine ⟨fun s t d a b k => ⟨fun h => ?_, fun h hc hred => ?_, fun h => ?_⟩, fun i s t h hi => ?_, fun i s t o h => ?_,
    fun s => s.statusWord_okf, rfl⟩
  · rw [execModload_ok k a rfl] at h
    cases h
    by_cases hv : (s.N a).val ≤ 1
    · simp [hv]
    · simp only [hv, ↓reduceIte, State.complete_okf]
      exact (decide_eq_true (by omega)).symm
  · rw [execModinv_ok d a k hc] at h
    cases h
    simp only [(s.reduced_iff a k).2 hred, ↓reduceIte, State.complete_okf]
    by_cases hg : Nat.gcd (s.N a).val (s.M k).mval = 1 <;> simp [hg]
  · rw [execGcd_ok d a b rfl] at h
    cases h
    rw [or_comm, or_assoc]
    by_cases hu : (s.N a).val = 0 ∨ (s.N b).val = 0 ∨ (s.N a).val % 2 = 0 ∧ (s.N b).val % 2 = 0 <;> simp [hu]
  · exact exec_keeps_okf h (by simp [hi])
  · have hcarry : (if writesCarry i = true ∧ check i s = .noFault then t.carry else s.carry) = t.carry := by
      split
      · rfl
      · exact (exec_keeps_carry h ‹_›).symm
    have hflags := exec_withFlags s.carry o h
    rwa [hcarry] at hflags

end

section
/-! The address map the other way round: the word index an address names is the register's own, and the indices the map
reserves (20_memory R202). -/

namespace Sys2Proof.Machine

open Sys2Proof.Config

/-- A word index of a Nat window that names a register is that register's (20_memory R202). -/
theorem indexOf_targetOf_nat (r : NatIx) {o : Nat} (ho : o < 0x100)
    (h : targetOf (0x200 + 0x100 * r + o) ≠ .reserved) :
    indexOf (targetOf (0x200 + 0x100 * r + o)) = 0x200 + 0x100 * r + o := by
  rw [targetOf_nat r ho] at h ⊢
  split_ifs at h ⊢ with hw hl
  · rfl
  · rw [hl, indexOf]
  · exact absurd rfl h

/-- A word index of a slot window that names a register is that register's (20_memory R202). -/
theorem indexOf_targetOf_slot (k : SlotIx) {o : Nat} (ho : o < 0x200)
    (h : targetOf (0x1400 + 0x200 * k + o) ≠ .reserved) :
    indexOf (targetOf (0x1400 + 0x200 * k + o)) = 0x1400 + 0x200 * k + o := by
  rw [targetOf_slot k ho] at h ⊢
  split_ifs at h ⊢ with hw hr
  · rfl
  · simp only [indexOf]
    omega
  · exact absurd rfl h

/-- A word index outside the control registers and the windows is reserved (20_memory R202). -/
theorem targetOf_gap {a : Nat} (h : 0x10 ≤ a ∧ a < 0x200 ∨ 0x1200 ≤ a ∧ a < 0x1400 ∨ 0x1800 ≤ a) :
    targetOf a = .reserved := by
  unfold targetOf
  rcases h with h | h | h
  · rw [if_neg (by omega), if_pos (by omega)]
  · rw [if_neg (by omega), if_neg (by omega), if_neg (by omega), if_pos (by omega)]
  · rw [if_neg (by omega), if_neg (by omega), if_neg (by omega), if_neg (by omega), if_neg (by omega)]

theorem targetOf_nat_gap (r : NatIx) {o : Nat} (h : 64 ≤ o ∧ o ≤ 0xFE) :
    targetOf (0x200 + 0x100 * r + o) = .reserved := by
  rw [targetOf_nat r (by omega), dif_neg (by simp only [NMAX]; omega), if_neg (by omega)]

theorem targetOf_slot_gap (k : SlotIx) {o : Nat} (h : 64 ≤ o ∧ o ≤ 0xFF ∨ 0x140 ≤ o ∧ o ≤ 0x1FF) :
    targetOf (0x1400 + 0x200 * k + o) = .reserved := by
  rw [targetOf_slot k (by omega), dif_neg (by simp only [NMAX]; omega), dif_neg (by simp only [NMAX]; omega)]

/-- A word index that names a register is that register's: no register answers at a second index (20_memory R202). -/
theorem indexOf_targetOf {a : Nat} (h : targetOf a ≠ .reserved) : indexOf (targetOf a) = a := by
  have hgap : ¬(0x10 ≤ a ∧ a < 0x200 ∨ 0x1200 ≤ a ∧ a < 0x1400 ∨ 0x1800 ≤ a) := fun hg => h (targetOf_gap hg)
  rcases (by omega : a < 0x10 ∨ 0x200 ≤ a ∧ a < 0x1200 ∨ 0x1400 ≤ a ∧ a < 0x1800) with ha | ha | ha
  · exact (show ∀ a < 0x10, indexOf (targetOf a) = a by decide) a ha
  · obtain ⟨r, o, ho, rfl⟩ : ∃ (r : NatIx) (o : Nat), o < 0x100 ∧ a = 0x200 + 0x100 * r + o :=
      ⟨⟨(a - 0x200) / 0x100, by omega⟩, (a - 0x200) % 0x100, by omega, by dsimp only; omega⟩
    exact indexOf_targetOf_nat r ho h
  · obtain ⟨k, o, ho, rfl⟩ : ∃ (k : SlotIx) (o : Nat), o < 0x200 ∧ a = 0x1400 + 0x200 * k + o :=
      ⟨⟨(a - 0x1400) / 0x200, by omega⟩, (a - 0x1400) % 0x200, by omega, by dsimp only; omega⟩
    exact indexOf_targetOf_slot k ho h

/-- An aligned address that names a register is that register's (20_memory R202). -/
theorem addrOf_portTarget {addr : Addr} (ha : aligned addr = true) (h : portTarget addr ≠ .reserved) :
    addrOf (portTarget addr) = addr := by
  have hidx : indexOf (portTarget addr) = addr.toNat / WB := indexOf_targetOf h
  have hmod : addr.toNat % WB = 0 := by simpa [aligned] using ha
  apply BitVec.eq_of_toNat_eq
  rw [addrOf_toNat, hidx, Nat.div_mul_cancel (Nat.dvd_of_mod_eq_zero hmod)]

end Sys2Proof.Machine
end

section
/-! What an access does at any address: aligned, misaligned and reserved ones, the reads while BUSY = 1, that ALIGN is
raised by misaligned accesses alone, and that a busy engine's operands stand still. -/

namespace Sys2Proof.Machine

open Sys2Proof.Config

/-! ## Accesses at any address -/

theorem aligned_iff (addr : Addr) : aligned addr = true ↔ addr.toNat % 8 = 0 := by
  simp [aligned, WB]

variable (s : State) {addr : Addr}

theorem State.hostRead_aligned (ha : aligned addr = true) : s.hostRead addr = s.readTarget (portTarget addr) := if_pos ha

theorem State.hostWrite_aligned (ha : aligned addr = true) (v : Word) :
    s.hostWrite addr v = s.writeTarget addr v (portTarget addr) := if_pos ha

theorem State.hostRead_misaligned (ha : ¬aligned addr = true) :
    s.hostRead addr = (s.raiseFault .align (busAddr addr) 0).answer 0 := if_neg ha

theorem State.hostWrite_misaligned (ha : ¬aligned addr = true) (v : Word) :
    s.hostWrite addr v = s.raiseFault .align (busAddr addr) v := if_neg ha

/-- A reserved word reads 0, whatever BUSY is (20_memory R208). -/
theorem State.readTarget_reserved : s.readTarget .reserved = { s with rdata := 0 } := by
  simp [State.readTarget, State.answer, State.peek, volatileWhileBusy]

/-- An aligned read changes the answer and the count of draws alone (20_memory R208, R210, R221). -/
theorem State.readTarget_cases (t : Target) : ∃ v n, s.readTarget t = (s.answer v).drawn n := by
  unfold State.readTarget
  split_ifs
  · exact ⟨_, 1, rfl⟩
  · exact ⟨_, 3, rfl⟩
  · exact ⟨s.peek t, 0, rfl⟩

/-- While BUSY = 1 a result register reads as the next draw (20_memory R221). -/
theorem State.hostRead_volatile (hb : s.busy = true) {t : Target} (ht : volatileWhileBusy t = true) :
    s.hostRead (addrOf t) = { s with rdata := freeBits W s.draws, draws := s.draws + 1 } := by
  rw [State.hostRead_addrOf, State.readTarget, if_pos (by simp [hb, ht])]
  rfl

/-- While BUSY = 1 STATUS reads as `statusDraw`, at the price of three draws (20_memory R221). -/
theorem State.hostRead_status_busy (hb : s.busy = true) :
    s.hostRead (addrOf .status) = { s with rdata := s.statusDraw, draws := s.draws + 3 } := by
  rw [State.hostRead_addrOf, State.readTarget, if_neg (by simp [volatileWhileBusy]), if_pos (by simp [hb])]
  rfl

/-! ## ALIGN is raised by misaligned accesses alone -/

theorem check_ne_align (i : Instr) (s : State) : check i s ≠ .align := by
  simp only [check]
  split_ifs <;> decide

theorem State.checkWord_ne_align (v : Word) : s.checkWord v ≠ .align := by
  unfold State.checkWord
  split
  · decide
  · exact check_ne_align _ s

variable {s}

/-- A fault with another code does not make the record one of ALIGN (60_exceptions R603). -/
theorem State.align_of_raiseFault {c : FaultCode} (hc : c ≠ .align) {a v : Word}
    (h : (s.raiseFault c a v).faultCode = .align) : s.faultCode = .align := by
  unfold State.raiseFault at h
  split at h
  · exact h
  · exact absurd h hc

theorem State.align_of_guardBusy {v : Word} {store : State} (hstore : store.faultCode = .align → s.faultCode = .align)
    (h : (s.guardBusy addr v store).faultCode = .align) : s.faultCode = .align := by
  rcases s.guardBusy_cases addr v store with ⟨-, hg⟩ | ⟨-, hg⟩ <;> rw [hg] at h
  · exact align_of_raiseFault (by decide) h
  · exact hstore h

theorem State.align_of_writeCmd {v : Word} (h : (s.writeCmd v).faultCode = .align) : s.faultCode = .align := by
  rcases s.writeCmd_cases v with ⟨-, hw⟩ | ⟨-, -, hw⟩ | ⟨-, -, -, hw⟩ | ⟨-, -, -, hw⟩ <;> rw [hw] at h
  · exact h
  · exact align_of_raiseFault (s := { s with lastCmd := v }) (by decide) h
  · exact align_of_raiseFault (s := { s with lastCmd := v }) (s.checkWord_ne_align v) h
  · exact h

theorem State.align_of_writeCtrl {v : Word} (h : (s.writeCtrl v).faultCode = .align) : s.faultCode = .align := by
  unfold State.writeCtrl at h
  split at h
  · cases h
  · exact h

theorem State.align_of_writeStatus {v : Word} (h : (s.writeStatus v).faultCode = .align) : s.faultCode = .align := by
  unfold State.writeStatus at h
  split at h <;> exact h

theorem State.align_of_writeElen {v : Word} (h : (s.writeElen addr v).faultCode = .align) : s.faultCode = .align := by
  unfold State.writeElen at h
  split at h
  · exact h
  · exact align_of_raiseFault (by decide) h

theorem State.align_of_writeLen {r : NatIx} {v : Word} (h : (s.writeLen addr r v).faultCode = .align) :
    s.faultCode = .align := by
  unfold State.writeLen at h
  split at h
  · exact h
  · exact align_of_raiseFault (by decide) h

/-- An aligned write raises BUSY, BADLEN or a command's fault, never ALIGN (20_memory R207). -/
theorem State.align_of_writeTarget {v : Word} {t : Target} (h : (s.writeTarget addr v t).faultCode = .align) :
    s.faultCode = .align := by
  cases t with
  | ctrl => exact align_of_writeCtrl h
  | status => exact align_of_writeStatus h
  | cmd => exact align_of_writeCmd h
  | elen => exact align_of_guardBusy align_of_writeElen h
  | eshort => exact align_of_guardBusy (store := { s with eshort := v }) id h
  | natWord r i => exact align_of_guardBusy (store := s.writeWord r i v) id h
  | natLen => exact align_of_guardBusy align_of_writeLen h
  | id | faultData | faultAddr | minfo | m0inv | choice | modWord | rrWord | reserved => exact h

/-! ## What the engine reads stands still while it is busy -/

/-- What a command reads or writes, and PEND and BUSY, are the same in `s` and `t` (20_memory R226). -/
structure SameOperands (s t : State) : Prop where
  nats : t.nats = s.nats
  slots : t.slots = s.slots
  choices : t.choices = s.choices
  carry : t.carry = s.carry
  okf : t.okf = s.okf
  elen : t.elen = s.elen
  eshort : t.eshort = s.eshort
  pend : t.pend = s.pend
  busy : t.busy = s.busy

theorem SameOperands.raiseFault (s : State) (c : FaultCode) (a v : Word) : SameOperands s (s.raiseFault c a v) := by
  constructor <;> simp

theorem hostRead_sameOperands (s : State) (addr : Addr) : SameOperands s (s.hostRead addr) := by
  rcases s.hostRead_cases addr with ⟨v, n, hr⟩ | hr <;> rw [hr] <;> constructor <;> simp

theorem WriteEffect.sameOperands {t : State} {v : Word} (h : WriteEffect s addr v t) (hb : s.busy = true)
    (hn : ¬(addr = addrOf .ctrl ∧ v.getLsbD 0 = true)) : SameOperands s t := by
  cases h with
  | softReset ha hv => exact absurd ⟨ha, hv⟩ hn
  | faulted c => exact .raiseFault s c _ v
  | cmdFault c => constructor <;> simp
  | ignored | enables | clearDone | lastCmd => constructor <;> rfl
  | issue hi | elen hi | eshort hi | nat hi => simp [hb] at hi

end Sys2Proof.Machine
end

section
/-! The registers outside a command's destinations as the port reads them, and the bits of MINFO and of a drawn STATUS. -/

namespace Sys2Proof.Machine

open Sys2Proof.Config

/-! ## The port frame of a command -/

/-- A completed effect leaves every register outside the command's destinations as the port reads it (10_state R106). -/
theorem EffectFrame.peek_complete {i : Instr} {s t : State} (hf : EffectFrame i s t) {a : Target}
    (h : mayChange i a = false) : t.complete.peek a = s.peek a := by
  cases a with
  | natWord r | natLen r => simp only [State.peek, State.complete_N, hf.N r (by simpa [mayChange] using h)]
  | modWord k | rrWord k | minfo k | m0inv k =>
    simp only [State.peek, State.complete_M, hf.M k (by simpa [mayChange] using h)]
  | choice c => simp only [State.peek, State.complete_C, hf.C c (by simpa [mayChange] using h)]
  | status => cases h
  | id | ctrl | cmd | faultData | faultAddr | elen | eshort | reserved =>
    obtain ⟨nats, slots, choices, carry, okf, draws, rfl⟩ := hf.exists_eq
    rfl

/-! ## The bits of MINFO and of a drawn STATUS -/

theorem extractLsb'_eq {w n : Nat} {x : BitVec w} {y : BitVec n} {a : Nat}
    (h : ∀ j, j < n → x.getLsbD (a + j) = y.getLsbD j) : x.extractLsb' a n = y := by
  apply BitVec.eq_of_getLsbD_eq
  intro j hj
  rw [BitVec.getLsbD_extractLsb', decide_eq_true hj, Bool.true_and, h j hj]

theorem Slot.info_len (m : Slot) : m.info.extractLsb' 8 8 = BitVec.ofNat 8 m.len := by
  refine extractLsb'_eq fun j hj => ?_
  rw [Slot.info_getLsbD]
  repeat rw [if_neg (by omega)]
  rw [if_pos (by omega), Nat.add_sub_cancel_left]

theorem Slot.info_bits (m : Slot) : m.info.extractLsb' 16 16 = BitVec.ofNat 16 m.bits := by
  refine extractLsb'_eq fun j hj => ?_
  rw [Slot.info_getLsbD]
  repeat rw [if_neg (by omega)]
  rw [if_pos (by omega), Nat.add_sub_cancel_left]

/-- The reserved bits of MINFO read 0 (10_state R134). -/
theorem Slot.info_reserved (m : Slot) {a n : Nat} (h : 2 ≤ a ∧ a + n ≤ 8 ∨ 32 ≤ a) : m.info.extractLsb' a n = 0 := by
  refine extractLsb'_eq_zero fun j hj => ?_
  rw [Slot.info_getLsbD]
  rcases h with h | h
  · rw [if_neg (by omega), if_neg (by omega), if_pos (by omega)]
  · repeat rw [if_neg (by omega)]

variable (s : State) (o c o' c' : BitVec 1) (ch ch' : BitVec 4)

theorem State.statusLayout_okf : (s.statusLayout o c ch).extractLsb' 3 1 = o := by
  refine extractLsb'_eq fun j hj => ?_
  obtain rfl : j = 0 := Nat.lt_one_iff.1 hj
  rw [State.statusLayout_getLsbD]
  rfl

theorem State.statusLayout_carry : (s.statusLayout o c ch).extractLsb' 4 1 = c := by
  refine extractLsb'_eq fun j hj => ?_
  obtain rfl : j = 0 := Nat.lt_one_iff.1 hj
  rw [State.statusLayout_getLsbD]
  rfl

theorem State.statusLayout_choices : (s.statusLayout o c ch).extractLsb' 8 4 = ch := by
  refine extractLsb'_eq fun j hj => ?_
  rw [State.statusLayout_getLsbD]
  repeat rw [if_neg (by omega)]
  rw [if_pos (by omega), Nat.add_sub_cancel_left]

/-- Outside OKF, CARRY and the choice bits a STATUS word does not depend on what stands there (10_state R129). -/
theorem State.statusLayout_other {j : Nat} (ho : j ≠ 3) (hc : j ≠ 4) (hch : ¬(8 ≤ j ∧ j ≤ 11)) :
    (s.statusLayout o c ch).getLsbD j = (s.statusLayout o' c' ch').getLsbD j := by
  have hch' : ¬(8 ≤ j ∧ j < 12) := by omega
  simp only [State.statusLayout_getLsbD, if_neg ho, if_neg hc, if_neg hch']

end Sys2Proof.Machine
end

section
/-! The bytes of a big-endian buffer in its value and in the words of that value (20_memory R204, R205). -/

namespace Sys2Proof.Machine

open Sys2Proof.Config

theorem bufferValue_lt (b : List (BitVec 8)) : bufferValue b < 2 ^ (8 * b.length) := by
  induction b with
  | nil => simp [bufferValue]
  | cons c bs ih =>
    have hc : c.toNat < 2 ^ 8 := c.isLt
    rw [List.length_cons, Nat.mul_succ, Nat.pow_add, Nat.mul_comm (2 ^ (8 * bs.length)), bufferValue]
    calc c.toNat * 2 ^ (8 * bs.length) + bufferValue bs < (c.toNat + 1) * 2 ^ (8 * bs.length) :=
          (Nat.add_lt_add_left ih _).trans_eq (Nat.succ_mul _ _).symm
      _ ≤ 2 ^ 8 * 2 ^ (8 * bs.length) := Nat.mul_le_mul_right _ hc

/-- Bit `i` of byte `j` is bit `8*(L-1-j) + i` of the buffer's value (20_memory R205). -/
theorem bufferValue_testBit (b : List (BitVec 8)) {j i : Nat} (hj : j < b.length) (hi : i < 8) :
    (bufferValue b).testBit (8 * (b.length - 1 - j) + i) = b[j].getLsbD i := by
  induction b generalizing j with
  | nil => cases hj
  | cons c bs ih =>
    have hlt := bufferValue_lt bs
    rw [bufferValue, Nat.mul_comm, Nat.testBit_two_pow_mul_add _ hlt, List.length_cons]
    cases j with
    | zero =>
      rw [if_neg (by omega), show 8 * (bs.length + 1 - 1 - 0) + i - 8 * bs.length = i by omega]
      rfl
    | succ j =>
      have hj' : j < bs.length := Nat.lt_of_succ_lt_succ hj
      rw [if_pos (by omega), show bs.length + 1 - 1 - (j + 1) = bs.length - 1 - j by omega]
      exact ih hj'

/-- Byte `m` of a value, counted from the low end, stands in word `m / WB` at byte `m % WB` (20_memory R204). -/
theorem wordAt_byte (v m : Nat) :
    (wordAt v (m / WB)).extractLsb' (8 * (m % WB)) 8 = BitVec.ofNat 8 (v >>> (8 * m)) := by
  refine extractLsb'_eq fun i hi => ?_
  have hm : W * (m / WB) + (8 * (m % WB) + i) = 8 * m + i := by simp only [W, WB]; omega
  have hlt : 8 * (m % WB) + i < 64 := by simp only [WB]; omega
  rw [wordAt, BitVec.getLsbD_ofNat, BitVec.getLsbD_ofNat, Nat.testBit_shiftRight, Nat.testBit_shiftRight, hm,
    decide_eq_true hlt, decide_eq_true hi]

theorem bufferValue_byte (b : List (BitVec 8)) {j : Nat} (hj : j < b.length) :
    BitVec.ofNat 8 (bufferValue b >>> (8 * (b.length - 1 - j))) = b[j] := by
  apply BitVec.eq_of_getLsbD_eq
  intro i hi
  rw [BitVec.getLsbD_ofNat, Nat.testBit_shiftRight, bufferValue_testBit b hj hi, decide_eq_true hi, Bool.true_and]

end Sys2Proof.Machine
end

section
/-! The host port: its address map, misaligned, reserved and read-only accesses, reads and writes while BUSY = 1, the port
frame of a command, and byte buffers. -/

open Sys2Proof Sys2Proof.Machine Sys2Proof.Config

/-- Settles O13: an access at a misaligned address is `raiseFault .align`, and no aligned one raises that code. -/
theorem misalignedAccessFaultsAlign : Obligations.MisalignedAccessFaultsAlign := by
  intro s addr v
  have hmis (hm : addr.toNat % 8 ≠ 0) : ¬aligned addr = true := mt (aligned_iff addr).1 hm
  refine ⟨fun hm hf => ?_, fun hm hf => ?_, fun hm => ?_⟩
  · rw [s.hostWrite_misaligned (hmis hm), s.hostRead_misaligned (hmis hm), s.raiseFault_of_clear hf,
      s.raiseFault_of_clear hf]
    exact ⟨rfl, rfl⟩
  · rw [s.hostWrite_misaligned (hmis hm), s.hostRead_misaligned (hmis hm), s.raiseFault_of_fault hf,
      s.raiseFault_of_fault hf]
    exact ⟨rfl, rfl⟩
  · have ha : aligned addr = true := (aligned_iff addr).2 hm
    obtain ⟨x, n, hr⟩ := s.readTarget_cases (portTarget addr)
    rw [s.hostRead_aligned ha, s.hostWrite_aligned ha, hr]
    exact ⟨rfl, State.align_of_writeTarget⟩

/-- Settles O14: the listed indices name no register, and the write of a read-only register is the identity. -/
theorem reservedAndReadOnlyAreIgnored : Obligations.ReservedAndReadOnlyAreIgnored := by
  refine ⟨fun s addr v a haddr h => ?_, fun s v k c i t ht => ?_⟩
  · have ha : aligned addr = true := (aligned_iff addr).2 (by omega)
    have ht : targetOf a = .reserved := by
      rcases h with h | ⟨r, i, hr, hlo, hhi, rfl⟩ | h | ⟨k, i, hk, hlo, hhi, rfl⟩ | ⟨k, i, hk, hlo, hhi, rfl⟩ | h
      · exact targetOf_gap (.inl h)
      · exact targetOf_nat_gap ⟨r, hr⟩ ⟨hlo, hhi⟩
      · exact targetOf_gap (.inr (.inl h))
      · exact targetOf_slot_gap ⟨k, hk⟩ (.inl ⟨hlo, hhi⟩)
      · rw [show 0x1500 + 0x200 * k + i = 0x1400 + 0x200 * k + (0x100 + i) by omega]
        exact targetOf_slot_gap ⟨k, hk⟩ (.inr (by omega))
      · exact targetOf_gap (.inr (.inr h))
    have hport : portTarget addr = .reserved := by
      rw [portTarget, haddr, Nat.mul_div_cancel_left _ (by decide), ht]
    rw [s.hostRead_aligned ha, s.hostWrite_aligned ha, hport]
    exact ⟨s.readTarget_reserved, rfl⟩
  · rw [State.hostWrite_addrOf]
    simp only [List.mem_cons, List.not_mem_nil, or_false] at ht
    rcases ht with rfl | rfl | rfl | rfl | rfl | rfl | rfl | rfl <;> rfl

/-- Settles O15: `indexOf` and `targetOf` undo each other, and the indices are those of the map. -/
theorem eachRegisterHasItsAddress : Obligations.EachRegisterHasItsAddress := by
  refine ⟨fun t _ => ⟨aligned_addrOf t, portTarget_addrOf t⟩, fun addr => addrOf_portTarget, by decide, fun r k i => ?_⟩
  simp only [addrOf_toNat, Nat.mul_comm _ WB]
  exact ⟨rfl, rfl, rfl, rfl⟩

/-- Settles O16: an idle read is `peek`, and the MINFO word is read off its bits. -/
theorem idleReadReturnsTheRegister : Obligations.IdleReadReturnsTheRegister := by
  intro s r k c i hb
  refine ⟨s.hostRead_idle _ hb, s.hostRead_idle _ hb, s.hostRead_idle _ hb, s.hostRead_idle _ hb, s.hostRead_idle _ hb,
    s.hostRead_idle _ hb, s.hostRead_idle _ hb, s.hostRead_idle _ hb, (s.M k).info, s.hostRead_idle _ hb, ?_, ?_,
    (s.M k).info_reserved (by omega), (s.M k).info_len, (s.M k).info_bits, (s.M k).info_reserved (by omega)⟩ <;>
  rw [Slot.info_getLsbD] <;> rfl

/-- Settles O17: the volatile registers answer one draw, STATUS three, the others their value. -/
theorem busyReadsAreDraws : Obligations.BusyReadsAreDraws := by
  intro s r k c i hb
  refine ⟨fun t ht => s.hostRead_volatile hb ?_, ⟨s.statusDraw, s.hostRead_status_busy hb, s.statusLayout_okf _ _ _,
    s.statusLayout_carry _ _ _, s.statusLayout_choices _ _ _, fun j => s.statusLayout_other _ _ _ _ _ _⟩, ?_,
    s.hostRead_exact rfl (by decide), s.hostRead_exact rfl (by decide), s.hostRead_exact rfl (by decide),
    s.hostRead_exact rfl (by decide), s.hostRead_exact rfl (by decide), s.hostRead_exact rfl (by decide)⟩
  · simp only [List.mem_cons, List.not_mem_nil, or_false] at ht
    rcases ht with rfl | rfl | rfl | rfl | rfl | rfl | rfl <;> rfl
  · exact s.hostRead_exact rfl (by decide)

/-- Settles O18: each of the four writes goes through `guardBusy`, which raises BUSY. -/
theorem busyWritesAreDropped : Obligations.BusyWritesAreDropped := by
  intro s r i v hb t ht
  have hw : s.hostWrite (addrOf t) v = s.raiseFault .busy (busAddr (addrOf t)) v := by
    rw [State.hostWrite_addrOf]
    simp only [List.mem_cons, List.not_mem_nil, or_false] at ht
    rcases ht with rfl | rfl | rfl | rfl <;> exact if_pos hb
  rw [hw]
  exact ⟨fun hf => s.raiseFault_of_clear hf _ _ _, fun hf => s.raiseFault_of_fault hf _ _ _⟩

/-- Settles O19: of what a host access can do, only a soft reset and what BUSY = 0 admits reach what a command uses. -/
theorem operandsAreFrozenWhileBusy : Obligations.OperandsAreFrozenWhileBusy := by
  intro s addr v hb t ht
  have hsame : SameOperands s t := by
    rcases ht with rfl | ⟨rfl, hn⟩
    · exact hostRead_sameOperands s addr
    · exact (hostWrite_effect s addr v).sameOperands hb hn
  exact ⟨hsame.nats, hsame.slots, hsame.choices, hsame.carry, hsame.okf, hsame.elen, hsame.eshort, hsame.pend,
    hsame.busy.trans hb⟩

/-- Settles O50: a command that passes its checks is an effect within its frame, seen through the port. -/
theorem commandPortFrame : Obligations.CommandPortFrame := by
  intro i s t addr h hc hm
  rcases exec_cases i s with ⟨-, u, hu, hf⟩ | ⟨hn, -⟩
  · rw [hu] at h
    cases h
    exact hf.peek_complete hm
  · exact absurd hc hn

/-- Settles O60: byte `j` of the buffer is byte `L-1-j` of its value, which is what both conversions read. -/
theorem bufferBytesLandInTheirWords : Obligations.BufferBytesLandInTheirWords := by
  intro b
  refine ⟨fun j hj => (wordAt_byte _ _).trans (bufferValue_byte b hj), List.ext_getElem (by simp [bytesOf]) ?_⟩
  intro j _ hj
  simpa [bytesOf] using bufferValue_byte b hj

end

section
/-! The layout of a command word and of a bus word: the fields of 30_encoding R302 packed and unpacked, and the bus word
that carries a command word in its low half (R301). -/

namespace Sys2Proof

open Sys2Proof.Machine

/-! ## The fields of a command word -/

@[simp] theorem Fields.unpack_pack (f : Fields) : Fields.unpack f.pack = f := by
  obtain ⟨opc, rd, ra, rb, cs, ms, rsv⟩ := f
  simp only [Fields.unpack, Fields.pack, Fields.mk.injEq]
  refine ⟨?_, ?_, ?_, ?_, ?_, ?_, ?_⟩
  all_goals repeat rw [BitVec.extractLsb'_append_eq_of_le (by decide)]
  case refine_7 => exact BitVec.extractLsb'_eq_self
  all_goals exact BitVec.extractLsb'_append_eq_right

@[simp] theorem Fields.pack_unpack (w : BitVec 32) : (Fields.unpack w).pack = w := by
  unfold Fields.pack Fields.unpack
  repeat rw [BitVec.extractLsb'_append_extractLsb'_eq_extractLsb' (by decide)]
  exact BitVec.extractLsb'_eq_self

theorem Fields.unpack_inj {w w' : BitVec 32} : Fields.unpack w = Fields.unpack w' ↔ w = w' :=
  (Function.LeftInverse.injective Fields.pack_unpack).eq_iff

theorem Fields.eq_unpack_iff {f : Fields} {w : BitVec 32} : f = Fields.unpack w ↔ f.pack = w := by
  rw [← Fields.unpack_inj, Fields.unpack_pack]

/-! ## The command word in a bus word -/

/-- The opcode stands in the low byte of the bus word. -/
theorem unpack_low_opc (v : Word) : (Fields.unpack (v.extractLsb' 0 32)).opc = v.extractLsb' 0 8 := by
  refine extractLsb'_eq fun j hj => ?_
  simp only [BitVec.getLsbD_extractLsb', Nat.zero_add, decide_eq_true hj, decide_eq_true (hj.trans (by decide : 8 < 32))]

/-- A bus word with its high half 0 is its low half, zero-extended (30_encoding R301). -/
theorem setWidth_eq_iff {w : BitVec 32} {v : Word} :
    w.setWidth 64 = v ↔ v.extractLsb' 32 32 = 0 ∧ v.extractLsb' 0 32 = w := by
  constructor
  · rintro rfl
    exact ⟨extractLsb'_eq_zero fun j _ => by simp, extractLsb'_eq fun j hj => by simp; omega⟩
  · rintro ⟨hhigh, rfl⟩
    have hsplit : v.extractLsb' 32 32 ++ v.extractLsb' 0 32 = v :=
      (BitVec.extractLsb'_append_extractLsb'_eq_extractLsb' rfl).trans BitVec.extractLsb'_eq_self
    rw [hhigh] at hsplit
    exact (BitVec.setWidth_eq_append (by decide)).trans hsplit

end Sys2Proof
end

section
/-! The decoder and the encoder undo each other on the fields of a command word, and the decoder accepts exactly the
well-formed fields (30_encoding R303, R307). -/

namespace Sys2Proof

open Sys2Proof.Machine

/-! ## The choice sources of CAND and COR -/

theorem choiceSourceOk_iff : ∀ x : BitVec 4, choiceSourceOk x = true ↔ x.toNat < 4 := by decide

theorem choiceSourceOk_ofNat : ∀ k : ChoiceIx, choiceSourceOk (.ofNat 4 k) = true := by decide

theorem choiceSource_ofNat : ∀ k : ChoiceIx, choiceSource (.ofNat 4 k) = k := by decide

theorem ofNat_choiceSource : ∀ x : BitVec 4, choiceSourceOk x = true → .ofNat 4 (choiceSource x) = x := by decide

/-! ## Well-formed fields -/

/-- The fields a command is encoded with are legal: by computation, but for the choice sources of CAND and COR. -/
theorem Instr.fields_wellFormed (i : Instr) : i.fields.wellFormed = true := by
  cases i
  case cand k ka kb => exact Laws.FieldsLegal.cand k ka kb
  case cor k ka kb => exact Laws.FieldsLegal.cor k ka kb
  all_goals rfl

theorem Fields.wellFormed_eq_false_iff {f : Fields} :
    f.wellFormed = false ↔ f.reservedClear = false ∨ f.opcodeListed = false ∨ f.unusedClear = false := by
  simp [wellFormed, Bool.and_eq_false_iff, or_assoc, -Bool.and_eq_false_imp]

theorem Fields.wellFormed_eq_false_of_rsv {f : Fields} (h : f.rsv ≠ 0) : f.wellFormed = false :=
  wellFormed_eq_false_iff.2 (.inl (beq_false_of_ne h))

theorem Fields.wellFormed_eq_false_of_lookup {f : Fields} (h : fieldUses.lookup f.opc = none) : f.wellFormed = false :=
  wellFormed_eq_false_iff.2 (.inr (.inl (by rw [opcodeListed, h]; rfl)))

/-- The legal fields of a listed opcode, by its row of the table of 30_encoding R303. -/
theorem Fields.wellFormed_iff {f : Fields} {u : FieldUse} (h : fieldUses.lookup f.opc = some u) :
    f.wellFormed = true ↔ f.rsv = 0 ∧ (u.rd = true ∨ f.rd = 0) ∧ (u.ra = true ∨ f.ra = 0) ∧ (u.rb = true ∨ f.rb = 0) ∧
      (u.cs = true ∨ f.cs = 0) ∧ (u.ms = true ∨ f.ms = 0) ∧
      (u.choiceSources = true → f.ra.toNat < 4 ∧ f.rb.toNat < 4) := by
  simp [wellFormed, reservedClear, opcodeListed, unusedClear, h, and_assoc, Decidable.imp_iff_not_or]

/-! ## The decoder -/

/-- The answer `r` is right for the fields `f`: a command that is encoded with them, or the rejection of ill-formed ones. -/
def Fields.Reads (f : Fields) : Except Illegal Instr → Prop
  | .ok i => i.fields = f
  | .error _ => f.wellFormed = false

/-- One arm of the decoder is right when its test holds of well-formed fields and makes them those of its command. -/
theorem Fields.Reads.acceptWhen {f : Fields} {c : Bool} {i : Instr} (hw : f.wellFormed = true → c = true)
    (hi : c = true → i.fields = f) : f.Reads (acceptWhen c i) := by
  unfold Sys2Proof.acceptWhen
  split
  · exact hi ‹_›
  · exact Bool.eq_false_iff.2 fun h => absurd (hw h) ‹_›

theorem eq_ofNat_of_toNat_eq {n m : Nat} {x : BitVec n} (h : x.toNat = m) : x = BitVec.ofNat n m :=
  (BitVec.toNat_eq_nat.1 h).2

theorem decodeFields_reads (f : Fields) : f.Reads (decodeFields f) := by
  obtain ⟨opc, rd, ra, rb, cs, ms, rsv⟩ := f
  unfold decodeFields
  dsimp only
  split
  · exact Fields.wellFormed_eq_false_of_rsv ‹_›
  rename_i hrsv
  obtain rfl := not_not.1 hrsv
  split
  case h_24 =>
    refine Fields.wellFormed_eq_false_of_lookup (List.lookup_eq_none_iff.2 ?_)
    simp only [fieldUses, List.cons_append, List.nil_append, List.forall_mem_cons, List.not_mem_nil, IsEmpty.forall_iff,
      implies_true, and_true, bne_iff_ne, ne_eq, ← BitVec.toNat_inj]
    and_intros <;> assumption
  all_goals
    rename_i hopc
    obtain rfl := eq_ofNat_of_toNat_eq hopc
    refine .acceptWhen (fun hw => ?_) ?_
    · simpa [choiceSourceOk_iff, and_assoc] using (Fields.wellFormed_iff rfl).1 hw
    · simp +contextual [Instr.fields, ofNat_choiceSource]

theorem decodeFields_fields (i : Instr) : decodeFields i.fields = .ok i := by
  cases i
  case cand => simp [decodeFields, Instr.fields, acceptWhen, choiceSource_ofNat, choiceSourceOk_ofNat]
  case cor => simp [decodeFields, Instr.fields, acceptWhen, choiceSource_ofNat, choiceSourceOk_ofNat]
  all_goals rfl

theorem decodeFields_eq_ok_iff {f : Fields} {i : Instr} : decodeFields f = .ok i ↔ i.fields = f := by
  constructor
  · intro h
    have hr := decodeFields_reads f
    rwa [h] at hr
  · rintro rfl
    exact decodeFields_fields i

theorem exists_fields_eq_iff (f : Fields) : (∃ i : Instr, i.fields = f) ↔ f.wellFormed = true := by
  constructor
  · rintro ⟨i, rfl⟩
    exact i.fields_wellFormed
  · intro h
    have hr := decodeFields_reads f
    cases hd : decodeFields f with
    | ok i => exact ⟨i, decodeFields_eq_ok_iff.1 hd⟩
    | error e =>
      rw [hd] at hr
      exact absurd h (Bool.eq_false_iff.1 hr)

theorem decodeCommand_eq_ok_iff {w : BitVec 32} {i : Instr} : decodeCommand w = .ok i ↔ i.fields = Fields.unpack w :=
  decodeFields_eq_ok_iff

theorem decode_eq_ok_iff_decodeCommand {v : Word} {i : Instr} :
    decode v = .ok i ↔ v.extractLsb' 32 32 = 0 ∧ decodeCommand (v.extractLsb' 0 32) = .ok i := by
  unfold decode
  split
  next h => exact ⟨nofun, fun hv => absurd hv.1 h⟩
  next h => exact (and_iff_right (not_not.1 h)).symm

/-- A bus word decodes to a command exactly when it is that command's word. -/
theorem decode_eq_ok_iff {v : Word} {i : Instr} : decode v = .ok i ↔ encode i = v := by
  rw [decode_eq_ok_iff_decodeCommand, decodeCommand_eq_ok_iff, Fields.eq_unpack_iff, encode, setWidth_eq_iff]
  exact and_congr_right fun _ => eq_comm

theorem exists_decode_eq_ok_iff (v : Word) : (∃ i, decode v = .ok i) ↔
    v.extractLsb' 32 32 = 0 ∧ (Fields.unpack (v.extractLsb' 0 32)).wellFormed = true := by
  simp only [decode_eq_ok_iff_decodeCommand, decodeCommand_eq_ok_iff, exists_and_left, exists_fields_eq_iff]

theorem exists_decode_eq_error_iff (v : Word) : (∃ e, decode v = .error e) ↔
    v.extractLsb' 32 32 ≠ 0 ∨ (Fields.unpack (v.extractLsb' 0 32)).wellFormed = false := by
  rw [← Bool.not_eq_true, ← not_and_or, ← exists_decode_eq_ok_iff]
  cases decode v <;> simp

end Sys2Proof
end

section
/-! The issue of a word that is no command (30_encoding R307). -/

namespace Sys2Proof.Machine

/-- With FAULT = 0 and BUSY = 0 such a word is the ILLEGAL record and LASTCMD, nothing else (60_exceptions R601). -/
theorem State.writeCmd_illegal (s : State) {v : Word} (hf : s.fault = false) (hb : s.busy = false)
    (hv : ∃ e, decode v = .error e) : s.writeCmd v =
      { s with lastCmd := v, fault := true, faultCode := .illegal, faultAddr := 0x18, faultData := v } := by
  obtain ⟨e, he⟩ := hv
  have hc : s.checkWord v = .illegal := by rw [State.checkWord, he]
  simp [State.writeCmd, State.raiseFault, cmdAddr, hf, hb, hc]

end Sys2Proof.Machine
end

section
/-! The rows of the opcode table: each mask is that of the fields its opcode does not use, and each opcode has one
mnemonic (30_encoding R306). -/

namespace Sys2Proof

/-- The opcode of a table row. -/
def OpcodeRow.opc (row : OpcodeRow) : BitVec 8 := row.pattern.extractLsb' 0 8

/-- The bits of the command word an opcode fixes: OPC, RSV, the fields it does not use, and bits 3:2 of the choice sources. -/
def FieldUse.mask (u : FieldUse) : Fields where
  opc := .allOnes 8
  rd := if u.rd then 0 else .allOnes 4
  ra := (if u.ra then 0 else .allOnes 4) ||| (if u.choiceSources then 0b1100 else 0)
  rb := (if u.rb then 0 else .allOnes 4) ||| (if u.choiceSources then 0b1100 else 0)
  cs := if u.cs then 0 else .allOnes 2
  ms := if u.ms then 0 else .allOnes 1
  rsv := .allOnes 9

theorem opcodeTable_mask : ∀ row ∈ opcodeTable,
    (fieldUses.lookup row.opc).map FieldUse.mask = some (Fields.unpack row.mask) := by decide

theorem opcodeTable_pattern : ∀ row ∈ opcodeTable, Fields.unpack row.pattern = ⟨row.opc, 0, 0, 0, 0, 0, 0⟩ := by decide

theorem opcodeTable_opc_eq_iff : ∀ row ∈ opcodeTable, ∀ row' ∈ opcodeTable,
    row.opc = row'.opc ↔ row.mnemonic = row'.mnemonic := by decide +kernel

theorem and_unused_eq_zero {n : Nat} (x : BitVec n) (used : Bool) :
    x &&& (if used then 0 else .allOnes n) = 0 ↔ used = true ∨ x = 0 := by
  cases used <;> simp

theorem and_choiceSource_eq_zero (x : BitVec 4) (b : Bool) :
    x &&& (if b then 0b1100 else 0) = 0 ↔ (b = true → x.toNat < 4) := by
  revert x b
  decide

theorem and_or_eq_zero {n : Nat} (x y z : BitVec n) : x &&& (y ||| z) = 0 ↔ x &&& y = 0 ∧ x &&& z = 0 := by
  rw [BitVec.and_or_distrib_left]
  exact BitVec.or_eq_zero_iff

/-- A word matches a row exactly when it has the row's opcode and its fields are legal. -/
theorem matches_row_iff {row : OpcodeRow} (hrow : row ∈ opcodeTable) (w : BitVec 32) :
    w &&& row.mask = row.pattern ↔ (Fields.unpack w).opc = row.opc ∧ (Fields.unpack w).wellFormed = true := by
  obtain ⟨u, hu, hmask⟩ := Option.map_eq_some_iff.1 (opcodeTable_mask row hrow)
  have hand : Fields.unpack (w &&& row.mask) =
      ⟨(Fields.unpack w).opc &&& u.mask.opc, (Fields.unpack w).rd &&& u.mask.rd, (Fields.unpack w).ra &&& u.mask.ra,
        (Fields.unpack w).rb &&& u.mask.rb, (Fields.unpack w).cs &&& u.mask.cs, (Fields.unpack w).ms &&& u.mask.ms,
        (Fields.unpack w).rsv &&& u.mask.rsv⟩ := by
    simp only [hmask, Fields.unpack, BitVec.extractLsb'_and]
  rw [← Fields.unpack_inj, opcodeTable_pattern row hrow, hand, Fields.mk.injEq]
  simp only [FieldUse.mask, and_or_eq_zero, and_unused_eq_zero, and_choiceSource_eq_zero, BitVec.and_allOnes]
  refine and_congr_right fun hopc => ?_
  rw [Fields.wellFormed_iff (hopc ▸ hu)]
  grind

/-- The row of a command's opcode carries its mnemonic. -/
theorem Instr.exists_row (i : Instr) : ∃ row ∈ opcodeTable, row.opc = i.fields.opc ∧ row.mnemonic = i.mnemonic := by
  cases i <;> simp [opcodeTable, OpcodeRow.opc, Instr.fields, Instr.mnemonic]

theorem Instr.opc_eq_iff_mnemonic_eq (i : Instr) {row : OpcodeRow} (hrow : row ∈ opcodeTable) :
    i.fields.opc = row.opc ↔ i.mnemonic = row.mnemonic := by
  obtain ⟨row', hrow', hopc, hmn⟩ := i.exists_row
  rw [← hopc, ← hmn]
  exact opcodeTable_opc_eq_iff row' hrow' row hrow

end Sys2Proof
end

section
/-! The encoding of commands: decoder and encoder, the opcode table, illegal words and the spec's examples. -/

open Sys2Proof Sys2Proof.Machine

/-- Settles O1: the decoder inverts the packing and reads the fields of every command back. -/
theorem decodeInvertsEncode : Obligations.DecodeInvertsEncode := fun _ => decode_eq_ok_iff.2 rfl

/-- Settles O2: the fields a command is decoded from are the ones it is encoded with. -/
theorem encodeInvertsDecode : Obligations.EncodeInvertsDecode := fun _ _ => decode_eq_ok_iff.1

/-- Settles O3: the decoder answers a command exactly on well-formed fields. -/
theorem decodeAcceptsExactlyLegalWords : Obligations.DecodeAcceptsExactlyLegalWords := exists_decode_eq_ok_iff

/-- Settles O5: matching a row is having its opcode and legal fields, and the opcode of a command is its mnemonic. -/
theorem opcodeRowsMatchTheDecoder : Obligations.OpcodeRowsMatchTheDecoder := by
  intro w row hrow
  rw [matches_row_iff hrow, ← exists_fields_eq_iff, ← exists_and_left]
  refine exists_congr fun i => ?_
  rw [decodeCommand_eq_ok_iff, ← i.opc_eq_iff_mnemonic_eq hrow, and_comm]
  exact and_congr_right fun h => by rw [h]

/-- Settles O8: a word that fails a check of R307 decodes to no command, so `Check` is ILLEGAL. -/
theorem illegalWordFaultsIllegal : Obligations.IllegalWordFaultsIllegal := by
  constructor
  · intro s v hf hb hv
    rw [← Fields.wellFormed_eq_false_iff] at hv
    rw [State.hostWrite_addrOf]
    exact s.writeCmd_illegal hf hb ((exists_decode_eq_error_iff v).2 hv)
  · intro v hopc
    refine (exists_decode_eq_error_iff v).2 (.inr (Fields.wellFormed_eq_false_of_lookup ?_))
    rw [unpack_low_opc, hopc]
    rfl

/-- Settles O4: the encodings are computed, the decodings follow. -/
theorem specExampleWordsDecode : Obligations.SpecExampleWordsDecode := by
  obtain ⟨h0, h1, h2⟩ := Tests.test_encode_examples
  exact ⟨⟨h0, decode_eq_ok_iff.2 h0⟩, ⟨h1, decode_eq_ok_iff.2 h1⟩, h2, decode_eq_ok_iff.2 h2⟩

end

section
/-! What MODLOAD, EXPAND and MOV answer when no check faults them, and the draw that stands for the residue of an unreduced
operand (41_nat_and_modulus R402 to R405). -/

namespace Sys2Proof.Machine

open Sys2Proof.Config

variable {s : State}

/-! ## MODLOAD, EXPAND and MOV -/

/-- MODLOAD has no check of R602 to fail. -/
theorem check_modload (k : SlotIx) (a : NatIx) : check (.modload k a) s = .noFault := rfl

/-- MOV has no check of R602 to fail. -/
theorem check_mov (d a : NatIx) : check (.mov d a) s = .noFault := rfl

theorem check_expand {d : NatIx} {k : SlotIx} (hv : (s.M k).valid = true) (hlen : (s.N d).len ≤ (s.M k).len) :
    check (.expand d k) s = .noFault := by
  refine (check_eq_noFault _ _).2 ⟨fun j hj => ?_, decide_eq_true hlen, rfl⟩
  cases hj
  exact ⟨hv, nofun⟩

theorem exec_modload_of_two_le (k : SlotIx) {a : NatIx} (h : 2 ≤ (s.N a).val) :
    exec (.modload k a) s =
      .next ({ s.setSlot k (Slot.load (s.N a).val) with okf := true } : State).complete := by
  rw [execModload_ok k a (check_modload k a)]
  simp only [if_neg (show ¬(s.N a).val ≤ 1 by omega)]

theorem exec_modload_of_le_one (k : SlotIx) {a : NatIx} (h : (s.N a).val ≤ 1) :
    exec (.modload k a) s = .next ({ s.setSlot k Slot.empty with okf := false } : State).complete := by
  rw [execModload_ok k a (check_modload k a)]
  simp only [if_pos h]

/-! ## Unreduced operands -/

theorem State.reduced_eq_false_iff {r : NatIx} {k : SlotIx} :
    s.reduced r k = false ↔ (s.M k).mval ≤ (s.N r).val := by
  simp [State.reduced]

/-- A drawn destination alone is written, and holds the next draw of its length (00_scope R18, R19). -/
theorem State.drawNat_writes (s : State) (d : NatIx) (n : Len) :
    WritesNat s (s.drawNat d n) d (freeBits (W * n) s.draws).toNat n :=
  s.writeNat_writes d (s.nextDraw_lt _)

/-- A command that completes with the residue of operands that are not all reduced has drawn its destination, and done
nothing else (41_nat_and_modulus R402). -/
theorem exec_draws_residue {i : Instr} {reduced : Bool} {d : NatIx} {k : SlotIx} {v : Nat}
    (h : exec i s = .next (s.writeResidue reduced d k v).complete) (hr : reduced = false) :
    ∃ t, exec i s = .next t ∧ WritesNat s t d (freeBits (W * (s.M k).len) s.draws).toNat (s.M k).len ∧
      t = { s with nats := t.nats, draws := s.draws + 1, busy := false, done := true } := by
  subst hr
  exact ⟨_, h, s.drawNat_writes d _, rfl⟩

/-- MODINV of an unreduced source draws its destination and then OKF (41_nat_and_modulus R402). -/
theorem exec_modinv_of_unreduced {d a : NatIx} {k : SlotIx} (hc : check (.modinv d a k) s = .noFault)
    (hr : s.reduced a k = false) :
    exec (.modinv d a k) s =
      .next ({ (s.drawNat d (s.M k).len).drawn 1 with okf := freeBits 1 (s.draws + 1) == 1 } : State).complete := by
  rw [execModinv_ok d a k hc]
  simp only [hr, Bool.false_eq_true, ↓reduceIte]
  rfl

end Sys2Proof.Machine
end

section
/-! Nat registers and moduli: loading a modulus, moving and expanding a register, and unreduced operands. -/

open Sys2Proof Sys2Proof.Machine

/-- Settles O29: MODLOAD stores the slot `Slot.load` makes, which holds the modulus with its constants. -/
theorem modloadLoadsTheModulus : Obligations.ModloadLoadsTheModulus := by
  intro s k a h
  refine ⟨_, exec_modload_of_two_le k h, ?_, fun j hj => s.setSlot_M_ne k j _ hj, rfl⟩
  exact (s.setSlot_M_same k _).symm ▸ Slot.load_holds h (s.N a).val_lt_max

/-- Settles O30: MODLOAD stores the empty slot. -/
theorem modloadRejectsZeroAndOne : Obligations.ModloadRejectsZeroAndOne := fun s k _ h =>
  ⟨_, exec_modload_of_le_one k h, s.setSlot_M_same k _, fun j hj => s.setSlot_M_ne k j _ hj, rfl⟩

/-- Settles O31: both write a value that fits its new length, EXPAND's because the length only grows. -/
theorem expandAndMovKeepTheValue : Obligations.ExpandAndMovKeepTheValue := by
  constructor
  · intro s d k hv hlen
    have hfit : (s.N d).val < 2 ^ (Config.W * (s.M k).len) :=
      (s.N d).val_lt.trans_le (Nat.pow_le_pow_right (by decide) (Nat.mul_le_mul_left _ hlen))
    exact ⟨_, execExpand_ok d k (check_expand hv hlen), s.writeNat_writes d hfit, rfl⟩
  · intro s d a
    exact ⟨_, execMov_ok d a (check_mov d a), s.writeNat_writes d (s.N a).val_lt, rfl⟩

/-- Settles O48: an unreduced operand makes the residue a draw in every one of the commands, and MODINV draws OKF too. -/
theorem unreducedOperandsGiveDraws : Obligations.UnreducedOperandsGiveDraws := by
  intro s d a b k
  refine ⟨fun i hi hc hr => ?_, fun i hi hc hr => ?_, fun hc hr => ?_⟩
  · have hred : (s.reduced a k && s.reduced b k) = false :=
      Bool.and_eq_false_iff.2 (hr.imp State.reduced_eq_false_iff.2 State.reduced_eq_false_iff.2)
    simp only [List.mem_cons, List.not_mem_nil, or_false] at hi
    rcases hi with rfl | rfl | rfl | rfl
    · exact exec_draws_residue (execModadd_ok d a b k hc) hred
    · exact exec_draws_residue (execModsub_ok d a b k hc) hred
    · exact exec_draws_residue (execMontmul_ok d a b k hc) hred
    · exact exec_draws_residue (execModmul_ok d a b k hc) hred
  · have hred : s.reduced a k = false := State.reduced_eq_false_iff.2 hr
    simp only [List.mem_cons, List.not_mem_nil, or_false] at hi
    rcases hi with rfl | rfl | rfl | rfl
    · exact exec_draws_residue (execTomont_ok d a k hc) hred
    · exact exec_draws_residue (execFrommont_ok d a k hc) hred
    · exact exec_draws_residue (execModexp_ok d a b k hc) hred
    · exact exec_draws_residue (execModexps_ok d a k hc) hred
  · exact ⟨_, exec_modinv_of_unreduced hc (State.reduced_eq_false_iff.2 hr), s.drawNat_writes d _, rfl⟩

end

section
/-! What the word adder computes: the words of ADDC and SUBB as numbers, and the residues of MODADD and MODSUB
(42_word_adder R421 to R425). -/

namespace Sys2Proof.Machine

open Sys2Proof.Config

/-! ## The words of ADDC and SUBB -/

/-- ADDC's words are the sum of two registers of one length, wrapped at that length (42_word_adder R421, R425). -/
theorem addWords_val {x y : NatReg} (hlen : x.len = y.len) :
    wordsVal (addWords x.words y.words false).1 = (x.val + y.val) % 2 ^ (W * x.len) := by
  obtain ⟨hl, hv⟩ := addWords_spec x.words y.words false (by simp [hlen])
  have hlt := wordsVal_lt (addWords x.words y.words false).1
  rw [hl, NatReg.length_words] at hlt
  rw [NatReg.length_words] at hv
  change _ = x.val + y.val at hv
  rw [← hv, Nat.add_mul_mod_self_left, Nat.mod_eq_of_lt hlt]

/-- SUBB's words are the difference of two registers of one length, wrapped at that length (42_word_adder R422, R425). -/
theorem subWords_val {x y : NatReg} (hlen : x.len = y.len) :
    wordsVal (subWords x.words y.words false).1 = (x.val + 2 ^ (W * x.len.val) - y.val) % 2 ^ (W * x.len) := by
  obtain ⟨hl, hv⟩ := subWords_spec x.words y.words false (by simp [hlen])
  have hlt := wordsVal_lt (subWords x.words y.words false).1
  rw [hl, NatReg.length_words] at hlt
  have hv' : (wordsVal (subWords x.words y.words false).1 : Int) -
      ((2 ^ (W * x.len.val) : Nat) : Int) * (subWords x.words y.words false).2.toNat = x.val - y.val := by
    simpa [NatReg.val] using hv
  have hwrap : x.val + 2 ^ (W * x.len.val) - y.val =
      wordsVal (subWords x.words y.words false).1 +
        2 ^ (W * x.len.val) * (1 - (subWords x.words y.words false).2.toNat) := by
    generalize 2 ^ (W * x.len.val) = P at hv' ⊢
    generalize (subWords x.words y.words false).2 = bo at hv' ⊢
    cases bo <;> simp only [Bool.toNat_false, Bool.toNat_true] at hv' ⊢ <;> omega
  rw [hwrap, Nat.add_mul_mod_self_left, Nat.mod_eq_of_lt hlt]

/-! ## Commands on a slot -/

variable {s : State} {i : Instr} {k : SlotIx}

/-- The check of a command on a valid slot whose parity it does not ask for (60_exceptions R602). -/
theorem check_of_valid_slot (hk : inputSlot i = some k) (hv : (s.M k).valid = true) (ho : needsOdd i = false)
    (hs : sizeOk i s = true) (he : exponentFits i s = true) : check i s = .noFault := by
  refine (check_eq_noFault i s).2 ⟨fun j hj => ?_, hs, he⟩
  obtain rfl : k = j := Option.some.inj (hk.symm.trans hj)
  exact ⟨hv, by simp [ho]⟩

/-- Two operands below the modulus are reduced (41_nat_and_modulus R402). -/
theorem State.reduced_both {a b : NatIx} (ha : (s.N a).val < (s.M k).mval) (hb : (s.N b).val < (s.M k).mval) :
    (s.reduced a k && s.reduced b k) = true :=
  Bool.and_eq_true_iff.2 ⟨(s.reduced_iff a k).2 ha, (s.reduced_iff b k).2 hb⟩

/-- A command that completes with the residue of reduced operands has written it at the modulus length, and done nothing
else (41_nat_and_modulus R402). -/
theorem exec_writes_residue {reduced : Bool} {d : NatIx} {v : Nat}
    (h : exec i s = .next (s.writeResidue reduced d k v).complete) (hr : reduced = true) (hv : v < (s.M k).mval) :
    ∃ t, exec i s = .next t ∧ WritesNat s t d v (s.M k).len ∧
      t = { s with nats := t.nats, busy := false, done := true } := by
  subst hr
  exact ⟨_, h, s.writeNat_writes d (hv.trans (s.M k).mval_lt), rfl⟩

/-- MODADD's selection on two registers below the modulus (42_word_adder R423). -/
theorem modaddValue_reduced {x y : NatReg} {m : Slot} (hx : x.len = m.len) (hy : y.len = m.len) (hxm : x.val < m.mval)
    (hym : y.val < m.mval) : modaddValue x.words y.words m.words = (x.val + y.val) % m.mval :=
  modaddValue_spec (by simp [hx, hy]) (by simp [hx]) hxm hym

/-- MODSUB's selection on two registers below the modulus (42_word_adder R424). -/
theorem modsubValue_reduced {x y : NatReg} {m : Slot} (hx : x.len = m.len) (hy : y.len = m.len) (hxm : x.val < m.mval)
    (hym : y.val < m.mval) : modsubValue x.words y.words m.words = (x.val + m.mval - y.val) % m.mval :=
  modsubValue_spec (by simp [hx, hy]) (by simp [hx]) hxm hym

end Sys2Proof.Machine
end

section
/-! The word adder: ADDC, SUBB, MODADD and MODSUB. -/

open Sys2Proof Sys2Proof.Machine

/-- Settles O32: the words are the wrapped sum, and the carry is the bit it lost. -/
theorem addcAddsWithCarryOut : Obligations.AddcAddsWithCarryOut := by
  intro s d a b hlen
  have hexec := execAddc_ok d a b (check_addc d hlen)
  simp only [addWords_val hlen, addWords_carry hlen] at hexec
  exact ⟨_, hexec, s.writeNat_writes d (Nat.mod_lt _ (Nat.two_pow_pos _)), rfl⟩

/-- Settles O33: the words are the wrapped difference, and CARRY is the borrow. -/
theorem subbSubtractsWithBorrowOut : Obligations.SubbSubtractsWithBorrowOut := by
  intro s d a b hlen
  have hexec := execSubb_ok d a b (check_subb d hlen)
  simp only [subWords_val hlen, subWords_borrow hlen] at hexec
  exact ⟨_, hexec, s.writeNat_writes d (Nat.mod_lt _ (Nat.two_pow_pos _)), rfl⟩

/-- Settles O34: the checks ask for no parity, and the residue of reduced operands is the sum modulo `m`. -/
theorem modaddIsAdditionModM : Obligations.ModaddIsAdditionModM := by
  intro s d a b k hvalid hla hlb ha hb
  have hcheck : check (.modadd d a b k) s = .noFault :=
    check_of_valid_slot rfl hvalid rfl (decide_eq_true ⟨hla, hlb⟩) rfl
  have hexec := execModadd_ok d a b k hcheck
  rw [modaddValue_reduced hla hlb ha hb] at hexec
  exact exec_writes_residue hexec (State.reduced_both ha hb) (Nat.mod_lt _ (Nat.zero_lt_of_lt ha))

/-- Settles O35: the checks ask for no parity, and the residue of reduced operands is the difference modulo `m`. -/
theorem modsubIsSubtractionModM : Obligations.ModsubIsSubtractionModM := by
  intro s d a b k hvalid hla hlb ha hb
  have hcheck : check (.modsub d a b k) s = .noFault :=
    check_of_valid_slot rfl hvalid rfl (decide_eq_true ⟨hla, hlb⟩) rfl
  have hexec := execModsub_ok d a b k hcheck
  rw [modsubValue_reduced hla hlb ha hb] at hexec
  exact exec_writes_residue hexec (State.reduced_both ha hb) (Nat.mod_lt _ (Nat.zero_lt_of_lt ha))

end

section
/-! The Montgomery product of a slot as a number (43_montgomery R441, R442): what the word loop keeps, and that its
result is the one residue whose product with `R` is `A*B`. -/

namespace Sys2Proof.Machine

open Sys2Proof.Config

/-! ## The word loop -/

section Loop

variable {w m mi A B : Nat}

/-- What `n` iterations leave: `T < 2m`, and `2^(w*n)` times `T` is the product of the low `n` words of A with B,
modulo `m` (43_montgomery R442). -/
theorem montLoop_spec (hmi : (m * mi + 1) % 2 ^ w = 0) (hB : B < m) (n : Nat) :
    montLoop w m mi A B n < 2 * m ∧ 2 ^ (w * n) * montLoop w m mi A B n ≡ A % 2 ^ (w * n) * B [MOD m] := by
  induction n with
  | zero => exact ⟨by simp only [montLoop]; omega, by simp [montLoop, Nat.mod_one, Nat.ModEq.refl]⟩
  | succ n ih =>
    obtain ⟨hT, hmod⟩ := ih
    set T := montLoop w m mi A B n
    set a := (A >>> (w * n)) % 2 ^ w with ha
    obtain ⟨⟨u, hu⟩, hlt⟩ := montStep_spec hmi hB (Nat.mod_lt (A >>> (w * n)) (Nat.two_pow_pos w)) hT
    refine ⟨hlt, ?_⟩
    have hwords : A % 2 ^ (w * (n + 1)) = A % 2 ^ (w * n) + 2 ^ (w * n) * a := by
      rw [Nat.mul_succ, pow_add, Nat.mod_mul, ha, Nat.shiftRight_eq_div_pow]
    calc 2 ^ (w * (n + 1)) * montStep w m mi B a T
        = 2 ^ (w * n) * T + 2 ^ (w * n) * a * B + m * (2 ^ (w * n) * u) := by
          rw [Nat.mul_succ, pow_add, mul_assoc, hu]; ring
      _ ≡ A % 2 ^ (w * n) * B + 2 ^ (w * n) * a * B [MOD m] :=
          (Nat.ModEq.add_right _ hmod).add (Nat.modEq_zero_iff_dvd.2 (dvd_mul_right m _))
      _ = A % 2 ^ (w * (n + 1)) * B := by rw [hwords, add_mul]

/-- The final conditional subtraction reduces the loop's result, so the product is below `m`, and `2^(w*n)` times it is
`A*B` modulo `m` (43_montgomery R442). -/
theorem montProduct_spec {n : Nat} (hmi : (m * mi + 1) % 2 ^ w = 0) (hA : A < 2 ^ (w * n)) (hB : B < m) :
    montProduct w n m mi A B < m ∧ montProduct w n m mi A B * 2 ^ (w * n) ≡ A * B [MOD m] := by
  obtain ⟨hlt, hmod⟩ := montLoop_spec (A := A) hmi hB n
  rw [Nat.mod_eq_of_lt hA, mul_comm] at hmod
  unfold montProduct
  dsimp only
  split
  next hle =>
    have hsub : montLoop w m mi A B n - m ≡ montLoop w m mi A B n [MOD m] := (Nat.mod_eq_sub_mod hle).symm
    exact ⟨by omega, (hsub.mul_right _).trans hmod⟩
  next hlt => exact ⟨by omega, hmod⟩

end Loop

/-! ## The slot of an odd modulus -/

/-- Word 0 of a slot is its modulus below `2^W` (10_state R115). -/
theorem Slot.mval_mod_word {m : Slot} (h : 0 < m.len.val) : m.mval % 2 ^ W = m.w[0].toNat := by
  obtain ⟨x, xs, hx⟩ := List.exists_cons_of_length_pos (m.length_words.symm ▸ h : 0 < m.words.length)
  have hw : x = m.w[0] := by
    have h0 : m.words[0]? = some m.w[0] := by simp [Slot.words, h]
    simpa [hx] using h0
  rw [Slot.mval, hx, wordsVal, Nat.add_mul_mod_self_left, hw]
  exact Nat.mod_eq_of_lt m.w[0].isLt

/-- A valid slot that holds an odd modulus, with what the Montgomery product needs of its constants: `m0inv` is
`-1/m mod 2^W`, and `rr` is `R^2 mod m` (10_state R112 to R117). -/
structure Slot.OddModulus (m : Slot) : Prop where
  valid : m.valid = true
  odd : m.odd = true
  two_le : 2 ≤ m.mval
  mval_odd : m.mval % 2 = 1
  m0inv_spec : (m.mval * m.m0inv.toNat + 1) % 2 ^ W = 0
  rrval_eq : m.rrval = m.radix ^ 2 % m.mval

/-- MODLOAD leaves a slot of an odd modulus so (41_nat_and_modulus R403). -/
theorem Slot.Wf.oddModulus {m : Slot} (hwf : m.Wf) (hv : m.valid = true) (ho : m.odd = true) : m.OddModulus := by
  rw [Slot.Wf, if_pos hv] at hwf
  obtain ⟨h2, -, -, hodd, -, -, -, hconst⟩ := hwf
  have hmodd : m.mval % 2 = 1 := of_decide_eq_true (hodd.symm.trans ho)
  rw [if_pos hmodd] at hconst
  obtain ⟨hm0, hrr, -⟩ := hconst
  refine ⟨hv, ho, h2, hmodd, ?_, hrr⟩
  have hlen : 0 < m.len.val := by
    rcases Nat.eq_zero_or_pos m.len.val with h0 | h0
    · have := m.mval_lt
      rw [Slot.radix, h0, mul_zero, pow_zero] at this
      omega
    · exact h0
  have hprod : m.mval * m.m0inv.toNat % 2 ^ W = 2 ^ W - 1 := by
    rw [Nat.mul_mod, mval_mod_word hlen, Nat.mod_eq_of_lt m.m0inv.isLt, ← BitVec.toNat_mul, hm0]
    rfl
  have hW : 0 < 2 ^ W := Nat.two_pow_pos W
  simp only [W] at hprod ⊢
  omega

namespace Slot.OddModulus

variable {m : Slot} (h : m.OddModulus) {A B v : Nat}
include h

/-- `R` is a power of 2, so a unit modulo the odd `m` (43_montgomery R441). -/
theorem radix_coprime : Nat.gcd m.mval m.radix = 1 :=
  Nat.Coprime.pow_right _ (Nat.coprime_two_right.2 (Nat.odd_iff.2 h.mval_odd))

theorem rrval_lt : m.rrval < m.mval :=
  h.rrval_eq ▸ Nat.mod_lt _ (Nat.zero_lt_of_lt h.two_le)

/-- `rr` is `R*R` modulo `m` (10_state R117). -/
theorem rrval_modEq : m.rrval ≡ m.radix * m.radix [MOD m.mval] := by
  rw [h.rrval_eq, pow_two]
  exact Nat.mod_modEq _ _

/-- The Montgomery product is below `m`, and its product with `R` is `A*B` modulo `m` (43_montgomery R442). -/
theorem mm_spec (hA : A < m.mval) (hB : B < m.mval) :
    m.mm A B < m.mval ∧ m.mm A B * m.radix ≡ A * B [MOD m.mval] :=
  montProduct_spec h.m0inv_spec (hA.trans m.mval_lt) hB

/-- No other residue has that product with `R`, which is a unit modulo `m`: what the Montgomery product is follows from
any `v` with `v*R = A*B` modulo `m`. -/
theorem mm_eq (hA : A < m.mval) (hB : B < m.mval) (hv : A * B ≡ v * m.radix [MOD m.mval]) :
    m.mm A B = v % m.mval := by
  obtain ⟨hlt, hmod⟩ := h.mm_spec hA hB
  have hmv : m.mm A B ≡ v [MOD m.mval] := Nat.ModEq.cancel_right_of_coprime h.radix_coprime (hmod.trans hv)
  exact (Nat.mod_eq_of_lt hlt).symm.trans hmv

/-- `Rinv` is the inverse of `R` modulo `m` (43_montgomery R441). -/
theorem modEq_mul_rinv_mul_radix (x : Nat) :
    x ≡ x * inv (m.radix % m.mval) m.mval * m.radix [MOD m.mval] := by
  have hg : Nat.gcd (m.radix % m.mval) m.mval = 1 := by rw [← Nat.gcd_rec, h.radix_coprime]
  obtain ⟨-, hone⟩ := inv_spec h.two_le hg
  have hinv : m.radix * inv (m.radix % m.mval) m.mval ≡ 1 [MOD m.mval] :=
    ((Nat.mod_modEq _ _).symm.mul_right _).trans (hone.trans (Nat.mod_eq_of_lt h.two_le).symm)
  simpa [mul_assoc, mul_comm m.radix] using (hinv.mul_left x).symm

/-- The Montgomery product is `A*B*Rinv mod m` (43_montgomery R442). -/
theorem mm_eq_rinv (hA : A < m.mval) (hB : B < m.mval) :
    m.mm A B = A * B * inv (m.radix % m.mval) m.mval % m.mval :=
  h.mm_eq hA hB (h.modEq_mul_rinv_mul_radix _)

/-- The product with `rr` is the Montgomery form `A*R mod m` (43_montgomery R444). -/
theorem mm_rrval (hA : A < m.mval) : m.mm A m.rrval = A * m.radix % m.mval :=
  h.mm_eq hA h.rrval_lt (by simpa [mul_assoc] using h.rrval_modEq.mul_left A)

/-- The product with 1 takes `v` out of the Montgomery form (43_montgomery R445). -/
theorem mm_one (hA : A < m.mval) (hv : A ≡ v * m.radix [MOD m.mval]) : m.mm A 1 = v % m.mval :=
  h.mm_eq hA h.two_le (by rwa [mul_one])

/-- The product of a Montgomery form with a residue is their product modulo `m` (43_montgomery R446). -/
theorem mm_mm_rrval (hA : A < m.mval) (hB : B < m.mval) : m.mm (m.mm A m.rrval) B = A * B % m.mval := by
  refine h.mm_eq (h.mm_spec hA h.rrval_lt).1 hB ?_
  rw [h.mm_rrval hA, mul_right_comm A B]
  exact (Nat.mod_modEq _ _).mul_right B

end Slot.OddModulus

end Sys2Proof.Machine
end

section
/-! The checks that the parity of a slot decides, FROMMONT on an odd modulus, and a rejected command at issue and in the
engine (43_montgomery R445, R447; 60_exceptions R601 to R604). -/

namespace Sys2Proof.Machine

/-! ## The commands on a slot of an odd modulus -/

variable {s : State} {k : SlotIx}

/-- The check of a command on a valid slot of an odd modulus (60_exceptions R602). -/
theorem check_of_oddModulus {i : Instr} (h : (s.M k).OddModulus) (hk : inputSlot i = some k) (hs : sizeOk i s = true)
    (he : exponentFits i s = true) : check i s = .noFault := by
  refine (check_eq_noFault i s).2 ⟨fun j hj => ?_, hs, he⟩
  obtain rfl : k = j := Option.some.inj (hk.symm.trans hj)
  exact ⟨h.valid, fun _ => h.odd⟩

/-- FROMMONT of the Montgomery form of `v` writes `v mod m` and does nothing else (43_montgomery R445). -/
theorem exec_frommont_of_modEq {a : NatIx} {v : Nat} (d : NatIx) (h : (s.M k).OddModulus)
    (hlen : (s.N a).len = (s.M k).len) (ha : (s.N a).val < (s.M k).mval)
    (hv : (s.N a).val ≡ v * (s.M k).radix [MOD (s.M k).mval]) :
    ∃ t, exec (.frommont d a k) s = .next t ∧ WritesNat s t d (v % (s.M k).mval) (s.M k).len ∧
      t = { s with nats := t.nats, busy := false, done := true } := by
  have hexec := execFrommont_ok d a k (check_of_oddModulus h rfl (decide_eq_true hlen) rfl)
  rw [h.mm_one ha hv] at hexec
  exact exec_writes_residue hexec ((s.reduced_iff a k).2 ha) (Nat.mod_lt _ (Nat.zero_lt_of_lt ha))

/-! ## The commands on an even modulus -/

/-- The check of a command that needs an odd modulus, on a valid slot of an even one (60_exceptions R602). -/
theorem check_of_even_slot {i : Instr} (hk : inputSlot i = some k) (hn : needsOdd i = true)
    (hv : (s.M k).valid = true) (ho : (s.M k).odd = false) : check i s = .even := by
  simp [check, hk, hn, hv, ho]

/-- Issuing a command that a check rejects, with FAULT = 0 and BUSY = 0, is its fault record and LASTCMD, nothing else
(60_exceptions R601, R602). -/
theorem State.writeCmd_rejected {i : Instr} (hf : s.fault = false) (hb : s.busy = false) (hc : check i s ≠ .noFault) :
    s.writeCmd (encode i) =
      { s with lastCmd := encode i, fault := true, faultCode := check i s, faultAddr := 0x18, faultData := encode i } := by
  have hw : s.checkWord (encode i) = check i s := by rw [State.checkWord, decode_eq_ok_iff.2 rfl]
  simp [State.writeCmd, State.raiseFault, cmdAddr, hf, hb, hw, hc]

/-- A command that a check rejects, given to the engine with FAULT = 0, is its fault record with BUSY = 0 (60_exceptions
R604; log 11). -/
theorem exec_rejected {i : Instr} (hf : s.fault = false) (hc : check i s ≠ .noFault) :
    exec i s = .next
      { s with busy := false, fault := true, faultCode := check i s, faultAddr := 0x18, faultData := encode i } := by
  rw [exec_fault hc, State.abandon, State.raiseFault_of_clear hf]
  rfl

end Sys2Proof.Machine
end

section
/-! The Montgomery family: the word loop, MONTMUL, TOMONT, FROMMONT and MODMUL, and their fault on an even modulus. -/

open Sys2Proof Sys2Proof.Machine

/-- Settles O36: after `n` words `2^(W*n)` times the loop's `T` is the product of those words of A with B modulo `m`, and
`R` is a unit modulo the odd `m`. -/
theorem montgomeryLoopComputesTheProduct : Obligations.MontgomeryLoopComputesTheProduct := by
  intro m A B hwf hvalid hodd hA hB
  have h := hwf.oddModulus hvalid hodd
  exact ⟨h.mm_eq_rinv hA hB, (h.mm_spec hA hB).2⟩

/-- Settles O37: the residue of reduced operands is their Montgomery product. -/
theorem montmulWritesTheProduct : Obligations.MontmulWritesTheProduct := by
  intro s d a b k hwf hvalid hodd hla hlb ha hb
  have h := hwf.oddModulus hvalid hodd
  have hexec := execMontmul_ok d a b k (check_of_oddModulus h rfl (decide_eq_true ⟨hla, hlb⟩) rfl)
  rw [h.mm_eq_rinv ha hb] at hexec
  exact exec_writes_residue hexec (State.reduced_both ha hb) (Nat.mod_lt _ (Nat.zero_lt_of_lt ha))

/-- Settles O38: TOMONT leaves the Montgomery form of `x`, FROMMONT takes it back to `x`, and takes any reduced `x` to
`x*Rinv` because `x` is the Montgomery form of that. -/
theorem tomontAndFrommontConvert : Obligations.TomontAndFrommontConvert := by
  intro s d a k hwf hvalid hodd hlen ha
  have h := hwf.oddModulus hvalid hodd
  have hpos : 0 < (s.M k).mval := Nat.zero_lt_of_lt ha
  refine ⟨?_, exec_frommont_of_modEq d h hlen ha (h.modEq_mul_rinv_mul_radix _)⟩
  have hexec := execTomont_ok d a k (check_of_oddModulus h rfl (decide_eq_true hlen) rfl)
  rw [h.mm_rrval ha] at hexec
  obtain ⟨t, ht, hwrites, hframe⟩ := exec_writes_residue hexec ((s.reduced_iff a k).2 ha) (Nat.mod_lt _ hpos)
  have ⟨⟨htlen, htval, _⟩, _⟩ := hwrites
  have hM : t.M k = s.M k := by rw [hframe]; rfl
  have hlt : (t.N d).val < (t.M k).mval := by rw [hM, htval]; exact Nat.mod_lt _ hpos
  have hform : (t.N d).val ≡ (s.N a).val * (t.M k).radix [MOD (t.M k).mval] := by
    rw [hM, htval]; exact Nat.mod_modEq _ _
  obtain ⟨u, hu, ⟨⟨-, huval, -⟩, -⟩, -⟩ := exec_frommont_of_modEq d (hM ▸ h) (Fin.ext (hM ▸ htlen)) hlt hform
  exact ⟨t, ht, hwrites, hframe, u, hu, by rw [huval, hM, Nat.mod_eq_of_lt ha]⟩

/-- Settles O39: the first product puts `x` into Montgomery form, the second takes its factor `R` out again. -/
theorem modmulIsMultiplicationModM : Obligations.ModmulIsMultiplicationModM := by
  intro s d a b k hwf hvalid hodd hla hlb ha hb
  have h := hwf.oddModulus hvalid hodd
  have hexec := execModmul_ok d a b k (check_of_oddModulus h rfl (decide_eq_true ⟨hla, hlb⟩) rfl)
  rw [h.mm_mm_rrval ha hb] at hexec
  exact exec_writes_residue hexec (State.reduced_both ha hb) (Nat.mod_lt _ (Nat.zero_lt_of_lt ha))

/-- Settles O11: the slot is valid, so EVEN is the first check that such a command fails, at issue and in the engine. -/
theorem montgomeryCommandsFaultEven : Obligations.MontgomeryCommandsFaultEven := by
  intro s d a b k hvalid heven hf i hi
  obtain ⟨hslot, hneeds⟩ : inputSlot i = some k ∧ needsOdd i = true := by
    simp only [List.mem_cons, List.not_mem_nil, or_false] at hi
    rcases hi with rfl | rfl | rfl | rfl | rfl | rfl <;> exact ⟨rfl, rfl⟩
  have hcheck : check i s = .even := check_of_even_slot hslot hneeds hvalid heven
  have hne : check i s ≠ .noFault := by simp [hcheck]
  refine ⟨fun hb => ?_, hcheck ▸ exec_rejected hf hne⟩
  rw [State.hostWrite_addrOf, ← hcheck]
  exact State.writeCmd_rejected hf hb hne

end

section
/-! Montgomery forms, and the exponent loops on them (44_exponentiation R462, R464): before exponent bit `j-1` the
accumulator is the Montgomery form of `x^(e / 2^j)`, the power with the exponent bits read so far. -/

namespace Sys2Proof.Machine

/-- `A` is the Montgomery form of `v` in a slot: the residue of `v*R` (43_montgomery R444). -/
def Slot.MontForm (m : Slot) (v A : Nat) : Prop := A < m.mval ∧ A ≡ v * m.radix [MOD m.mval]

/-! ## The exponent bits -/

/-- The exponent bits from `j` up are those from `j+1` up with bit `j` below them. -/
theorem div_two_pow_eq_double_add_testBit (e j : Nat) : e / 2 ^ j = 2 * (e / 2 ^ (j + 1)) + (e.testBit j).toNat := by
  rw [Nat.toNat_testBit, pow_succ, ← Nat.div_div_eq_div_mul, Nat.div_add_mod]

/-- The top bit of a positive exponent is 1. -/
theorem div_two_pow_bitlen_pred {e : Nat} (he : e ≠ 0) : e / 2 ^ (bitlen e - 1) = 1 := by
  have hlow : 2 ^ (bitlen e - 1) ≤ e := two_pow_le_of_bitlen he
  have hpos : 1 ≤ bitlen e := by simp [bitlen, he]
  have hhigh : e < 2 ^ (bitlen e - 1) * 2 := by
    rw [← pow_succ, Nat.sub_add_cancel hpos]
    exact lt_two_pow_bitlen e
  exact Nat.div_eq_of_lt_le (by omega) (by omega)

/-- The skipped multiply of MODEXPS is the one whose result MODEXP does not select: the two loops have one value. -/
theorem expBitsShort_eq_expBits (mm : Nat → Nat → Nat) (e xR j acc : Nat) :
    expBitsShort mm e xR j acc = expBits mm e xR j acc := by
  induction j generalizing acc with
  | zero => rfl
  | succ j ih => simp only [expBitsShort, expBits, ih]

/-! ## Products of Montgomery forms -/

namespace Slot.OddModulus

variable {m : Slot} (h : m.OddModulus) {A B x y e : Nat}
include h

/-- The product with `rr` is a Montgomery form (43_montgomery R444). -/
theorem montForm_mm_rrval (hA : A < m.mval) : m.MontForm A (m.mm A m.rrval) := by
  rw [h.mm_rrval hA]
  exact ⟨Nat.mod_lt _ (Nat.zero_lt_of_lt hA), Nat.mod_modEq _ _⟩

/-- The Montgomery product of two Montgomery forms is that of the product (43_montgomery R442). -/
theorem montForm_mm (hA : m.MontForm x A) (hB : m.MontForm y B) : m.MontForm (x * y) (m.mm A B) := by
  obtain ⟨hAlt, hAmod⟩ := hA
  obtain ⟨hBlt, hBmod⟩ := hB
  have hprod : A * B ≡ x * y * m.radix * m.radix [MOD m.mval] := by
    simpa only [mul_assoc, mul_left_comm m.radix] using hAmod.mul hBmod
  rw [MontForm, h.mm_eq hAlt hBlt hprod]
  exact ⟨Nat.mod_lt _ (Nat.zero_lt_of_lt hAlt), Nat.mod_modEq _ _⟩

/-- The product with 1 takes a Montgomery form back to its residue (43_montgomery R445). -/
theorem mm_montForm_one (hA : m.MontForm x A) : m.mm A 1 = x % m.mval := h.mm_one hA.1 hA.2

/-- The loop takes the power with the exponent bits from `j` up to the power with all of them. -/
theorem montForm_expBits (hx : m.MontForm x A) (j : Nat) {acc : Nat} (hacc : m.MontForm (x ^ (e / 2 ^ j)) acc) :
    m.MontForm (x ^ e) (expBits m.mm e A j acc) := by
  induction j generalizing acc with
  | zero => simpa [expBits] using hacc
  | succ j ih =>
    have hsq : m.MontForm (x ^ (2 * (e / 2 ^ (j + 1)))) (m.mm acc acc) := by
      rw [two_mul, pow_add]
      exact h.montForm_mm hacc hacc
    refine ih ?_
    rw [div_two_pow_eq_double_add_testBit]
    cases e.testBit j with
    | false => exact hsq
    | true => exact h.montForm_mm hsq hx

/-! ## The results of MODEXP and MODEXPS -/

/-- MODEXP starts from the Montgomery form of 1, the power with no exponent bit (44_exponentiation R462). -/
theorem expResult_eq (hx : x < m.mval) {nbits : Nat} (he : e < 2 ^ nbits) : m.expResult x e nbits = x ^ e % m.mval := by
  have hstart : m.MontForm (x ^ (e / 2 ^ nbits)) (m.mm 1 m.rrval) := by
    rw [Nat.div_eq_of_lt he, pow_zero]
    exact h.montForm_mm_rrval h.two_le
  exact h.mm_montForm_one (h.montForm_expBits (h.montForm_mm_rrval hx) nbits hstart)

/-- MODEXPS starts from the Montgomery form of `x`, the power with the top exponent bit (44_exponentiation R464). -/
theorem expShortResult_eq (hx : x < m.mval) (e : Nat) : m.expShortResult x e = x ^ e % m.mval := by
  rw [expShortResult]
  split
  case isTrue he => rw [he, pow_zero, Nat.mod_eq_of_lt h.two_le]
  case isFalse he =>
    have hxR := h.montForm_mm_rrval hx
    have hstart : m.MontForm (x ^ (e / 2 ^ (bitlen e - 1))) (m.mm x m.rrval) := by
      rwa [div_two_pow_bitlen_pred he, pow_one]
    have hloop := h.montForm_expBits hxR _ hstart
    rw [← expBitsShort_eq_expBits] at hloop
    exact h.mm_montForm_one hloop

end Slot.OddModulus

end Sys2Proof.Machine
end

section
/-! Exponentiation: MODEXP and MODEXPS. -/

open Sys2Proof Sys2Proof.Machine

/-- Settles O40: `e` is below `2^(8*ELEN)`, so the bits the loop reads are all of it. -/
theorem modexpIsPowerModM : Obligations.ModexpIsPowerModM := by
  intro s d a b k hwf hvalid hodd hlen hfits ha
  have h := hwf.oddModulus hvalid hodd
  have hexec := execModexp_ok d a b k (check_of_oddModulus h rfl (decide_eq_true hlen) (decide_eq_true hfits))
  have he : s.exponent b < 2 ^ (8 * s.elen.toNat) := Nat.mod_lt _ (Nat.two_pow_pos _)
  rw [h.expResult_eq ha he] at hexec
  exact exec_writes_residue hexec ((s.reduced_iff a k).2 ha) (Nat.mod_lt _ (Nat.zero_lt_of_lt ha))

/-- Settles O41: the loop's value is MODEXP's, entered after the top bit of ESHORT. -/
theorem modexpsIsPowerModM : Obligations.ModexpsIsPowerModM := by
  intro s d a k hwf hvalid hodd hlen ha
  have h := hwf.oddModulus hvalid hodd
  have hexec := execModexps_ok d a k (check_of_oddModulus h rfl (decide_eq_true hlen) rfl)
  rw [h.expShortResult_eq ha] at hexec
  exact exec_writes_residue hexec ((s.reduced_iff a k).2 ha) (Nat.mod_lt _ (Nat.zero_lt_of_lt ha))

end

section
/-! What SELECT's blend and EQUAL's difference say of the values of two registers, what a choice written by a predicate
is, and the logical reading of the and, or of two choices (45_select_compare R483 to R490). -/

namespace Sys2Proof.Machine

/-! ## Two registers of one length -/

variable {x y : NatReg}

/-- The blend under a choice takes one register's words whole: the first's for ONES, the second's for 0
(45_select_compare R483). -/
theorem blendWords_val {c : Word} (hc : IsChoice c) (hlen : x.len = y.len) :
    wordsVal (blendWords c x.words y.words) = if c = ones then x.val else y.val := by
  have hl : x.words.length = y.words.length := by simp [hlen]
  rcases hc with rfl | rfl
  · rw [blendWords_zero hl, if_neg (by decide)]
    rfl
  · rw [blendWords_ones hl, if_pos rfl]
    rfl

/-- The difference is 0 exactly when the values agree, because the words of a length are those of one value
(45_select_compare R484). -/
theorem diffWords_eq_zero_iff_val_eq (hlen : x.len = y.len) : diffWords x.words y.words = 0 ↔ x.val = y.val := by
  have hl : x.words.length = y.words.length := by simp [hlen]
  rw [diffWords_eq_zero hl]
  exact ⟨congrArg wordsVal, wordsVal_inj hl⟩

/-! ## The and, or of two choices -/

/-- The and of two choices is the logical one: the four rows of its table (45_select_compare R489). -/
theorem IsChoice.and_eq_ite {v w : Word} (hv : IsChoice v) (hw : IsChoice w) :
    v &&& w = if v = ones ∧ w = ones then ones else 0 := by
  rcases hv with rfl | rfl <;> rcases hw with rfl | rfl <;> decide

/-- The or of two choices is the logical one: the four rows of its table (45_select_compare R490). -/
theorem IsChoice.or_eq_ite {v w : Word} (hv : IsChoice v) (hw : IsChoice w) :
    v ||| w = if v = ones ∨ w = ones then ones else 0 := by
  rcases hv with rfl | rfl <;> rcases hw with rfl | rfl <;> decide

/-! ## Commands that write a choice -/

variable {s : State} {i : Instr} {k : ChoiceIx}

/-- The check of a command that reads no slot (60_exceptions R602). -/
theorem check_of_no_slot (hk : inputSlot i = none) (hs : sizeOk i s = true) (he : exponentFits i s = true) :
    check i s = .noFault :=
  (check_eq_noFault i s).2 ⟨fun j hj => by simp [hk] at hj, hs, he⟩

/-- A command that completes with a choice stored has written that choice, and done nothing else. -/
theorem exec_stores_choice {v : Word} (h : exec i s = .next (s.setChoice k v).complete) :
    ∃ t, exec i s = .next t ∧ t.C k = v ∧ (∀ c, c ≠ k → t.C c = s.C c) ∧
      t = { s with choices := t.choices, busy := false, done := true } :=
  ⟨_, h, s.setChoice_C_same k v, fun c hc => s.setChoice_C_ne k c v hc, rfl⟩

/-- A command that completes with the choice of a test has written the choice of the property it tests for, and done
nothing else (00_scope R22). -/
theorem exec_writes_choice {test : Bool} {p : Prop} [Decidable p]
    (h : exec i s = .next (s.setChoice k (choiceOf test)).complete) (hp : test = true ↔ p) :
    ∃ t, exec i s = .next t ∧ WritesChoice s t k p ∧
      t = { s with choices := t.choices, busy := false, done := true } := by
  obtain ⟨t, ht, hC, hframe, heq⟩ := exec_stores_choice h
  refine ⟨t, ht, ⟨?_, hframe⟩, heq⟩
  rw [hC, choiceOf]
  simp only [hp]

/-- A loaded modulus is at least 2, whatever its parity (41_nat_and_modulus R403). -/
theorem Slot.Wf.two_le_mval {m : Slot} (hwf : m.Wf) (hv : m.valid = true) : 2 ≤ m.mval := by
  rw [Slot.Wf, if_pos hv] at hwf
  exact hwf.1

end Sys2Proof.Machine
end

section
/-! Selection and comparison: SELECT, the predicates, CAND and COR. -/

open Sys2Proof Sys2Proof.Machine

/-- Settles O42: the blend is the taken operand's value, which fits the common length. -/
theorem selectTakesOneOperand : Obligations.SelectTakesOneOperand := by
  intro s d k a b hlen hchoice
  have hexec := execSelect_ok d k a b (check_of_no_slot rfl (decide_eq_true hlen) rfl)
  rw [blendWords_val hchoice hlen] at hexec
  have hfit : (if s.C k = ones then (s.N a).val else (s.N b).val) < 2 ^ (Config.W * (s.N a).len) := by
    split
    · exact (s.N a).val_lt
    · exact hlen ▸ (s.N b).val_lt
  exact ⟨_, hexec, s.writeNat_writes d hfit, rfl⟩

/-- Settles O43: the words of two registers of one length differ exactly when their values do. -/
theorem equalComparesValues : Obligations.EqualComparesValues := fun _ k a b hlen =>
  exec_writes_choice (execEqual_ok k a b (check_of_no_slot rfl (decide_eq_true hlen) rfl))
    (beq_iff_eq.trans (diffWords_eq_zero_iff_val_eq hlen))

/-- Settles O44: each command's test is its predicate; ISMINUSONE's sum says the difference because `m` is not 0. -/
theorem predicatesWriteTheirChoice : Obligations.PredicatesWriteTheirChoice := by
  refine ⟨fun s k a => ⟨?_, ?_, ?_⟩, fun s k a m hwf hvalid hlen => ?_⟩
  · exact exec_writes_choice (execIszero_ok k a (check_of_no_slot rfl rfl rfl)) beq_iff_eq
  · exact exec_writes_choice (execIsone_ok k a (check_of_no_slot rfl rfl rfl)) beq_iff_eq
  · exact exec_writes_choice (execIsodd_ok k a (check_of_no_slot rfl rfl rfl)) beq_iff_eq
  · have hcheck : check (.isminusone k a m) s = .noFault :=
      check_of_valid_slot rfl hvalid rfl (decide_eq_true hlen) rfl
    have htwo := hwf.two_le_mval hvalid
    refine exec_writes_choice (execIsminusone_ok k a m hcheck) ?_
    rw [beq_iff_eq]
    omega

/-- Settles O45: each stores the bitwise result, which on choices is the logical one. -/
theorem choiceCombinators : Obligations.ChoiceCombinators := by
  intro s k ka kb
  constructor
  · obtain ⟨t, ht, hC, hframe, heq⟩ := exec_stores_choice (execCand_ok k ka kb (check_of_no_slot (s := s) rfl rfl rfl))
    exact ⟨t, ht, hC, hframe, heq, fun ha hb => hC.trans (IsChoice.and_eq_ite ha hb)⟩
  · obtain ⟨t, ht, hC, hframe, heq⟩ := exec_stores_choice (execCor_ok k ka kb (check_of_no_slot (s := s) rfl rfl rfl))
    exact ⟨t, ht, hC, hframe, heq, fun ha hb => hC.trans (IsChoice.or_eq_ite ha hb)⟩

end

section
/-! What MODINV of a reduced source and GCD answer, branch by branch (46_vartime R513, R514), and that the values they
write fit the destination's length. -/

namespace Sys2Proof.Machine

variable {s : State} {a b : NatIx} {k : SlotIx}

/-- A command that completes with a value that fits written and OKF set has done nothing else (46_vartime R515). -/
theorem exec_writes_nat_with_okf {i : Instr} {d : NatIx} {v : Nat} {n : Len}
    (h : exec i s = .next ({ s.writeNat d v n with okf := true } : State).complete) (hv : v < 2 ^ (Config.W * n)) :
    ∃ t, exec i s = .next t ∧ WritesNat s t d v n ∧
      t = { s with nats := t.nats, okf := true, busy := false, done := true } :=
  ⟨_, h, s.writeNat_writes d hv, rfl⟩

/-! ## MODINV -/

/-- The checks of MODINV ask for a modulus and its length, not for its parity (60_exceptions R602). -/
theorem check_modinv (d : NatIx) (hv : (s.M k).valid = true) (hlen : (s.N a).len = (s.M k).len) :
    check (.modinv d a k) s = .noFault :=
  check_of_valid_slot rfl hv rfl (decide_eq_true hlen) rfl

theorem exec_modinv_of_coprime {d : NatIx} (hc : check (.modinv d a k) s = .noFault)
    (hr : (s.N a).val < (s.M k).mval) (hg : Nat.gcd (s.N a).val (s.M k).mval = 1) :
    exec (.modinv d a k) s =
      .next ({ s.writeNat d (inv (s.N a).val (s.M k).mval) (s.M k).len with okf := true } : State).complete := by
  rw [execModinv_ok d a k hc]
  simp only [(s.reduced_iff a k).2 hr, hg, ↓reduceIte]

theorem exec_modinv_of_not_coprime {d : NatIx} (hc : check (.modinv d a k) s = .noFault)
    (hr : (s.N a).val < (s.M k).mval) (hg : Nat.gcd (s.N a).val (s.M k).mval ≠ 1) :
    exec (.modinv d a k) s = .next ({ s with okf := false } : State).complete := by
  rw [execModinv_ok d a k hc]
  simp only [(s.reduced_iff a k).2 hr, hg, ↓reduceIte]

/-! ## GCD -/

/-- GCD has no check of R602 to fail. -/
theorem check_gcd (d a b : NatIx) : check (.gcd d a b) s = .noFault := rfl

/-- Two non-zero values, one of them odd, meet none of the conditions under which GCD answers OKF = 0
(46_vartime R514). -/
theorem exec_gcd_of_usable {d : NatIx} (hx : (s.N a).val ≠ 0) (hy : (s.N b).val ≠ 0)
    (hodd : (s.N a).val % 2 = 1 ∨ (s.N b).val % 2 = 1) :
    exec (.gcd d a b) s =
      .next ({ s.writeNat d (Nat.gcd (s.N a).val (s.N b).val) (s.N b).len with okf := true } : State).complete := by
  have husable : ¬((s.N a).val = 0 ∨ (s.N b).val = 0 ∨ (s.N a).val % 2 = 0 ∧ (s.N b).val % 2 = 0) := by omega
  rw [execGcd_ok d a b (check_gcd d a b)]
  simp only [if_neg husable]

theorem exec_gcd_of_unusable {d : NatIx}
    (h : (s.N a).val = 0 ∨ (s.N b).val = 0 ∨ (s.N a).val % 2 = 0 ∧ (s.N b).val % 2 = 0) :
    exec (.gcd d a b) s = .next ({ s with okf := false } : State).complete := by
  rw [execGcd_ok d a b (check_gcd d a b)]
  simp only [if_pos h]

/-- The greatest common divisor fits the length of its non-zero second argument's register (46_vartime R514). -/
theorem gcd_lt_radix {y : NatReg} (x : Nat) (hy : y.val ≠ 0) : Nat.gcd x y.val < 2 ^ (Config.W * y.len) :=
  (Nat.gcd_le_right x (Nat.pos_of_ne_zero hy)).trans_lt y.val_lt

end Sys2Proof.Machine
end

section
/-! The variable-time commands: MODINV and GCD. -/

open Sys2Proof Sys2Proof.Machine

/-- Settles O46: the Euclid loop's coefficient is the inverse of a unit, below `m` and so within the modulus length; of
a non-unit nothing is written but OKF. -/
theorem modinvInvertsUnits : Obligations.ModinvInvertsUnits := by
  intro s d a k hwf hvalid hlen hred
  have hcheck := check_modinv d hvalid hlen
  refine ⟨fun hgcd => ?_, fun hgcd => exec_modinv_of_not_coprime hcheck hred hgcd⟩
  obtain ⟨hlt, hprod⟩ := inv_spec (hwf.two_le_mval hvalid) hgcd
  obtain ⟨t, ht, hwrites, hframe⟩ :=
    exec_writes_nat_with_okf (exec_modinv_of_coprime hcheck hred hgcd) (hlt.trans (s.M k).mval_lt)
  exact ⟨t, _, ht, hlt, hprod, hwrites, hframe⟩

/-- Settles O47: the divisor of usable values is at most N[B]'s, so it fits that length; of any other pair nothing is
written but OKF. -/
theorem gcdOfUsableInputs : Obligations.GcdOfUsableInputs := by
  intro s d a b
  exact ⟨fun hx hy hodd => exec_writes_nat_with_okf (exec_gcd_of_usable hx hy hodd) (gcd_lt_radix _ hy),
    exec_gcd_of_unusable⟩

end

section
/-! A write to CMD, branch by branch (60_exceptions R601, R605), and `Check` of a command as the chain of its
conditions: the validity and parity of its slot, its lengths, its exponent (60_exceptions R602). -/

namespace Sys2Proof.Machine

variable {s : State} {v : Word} {i : Instr} {k : SlotIx}

/-! ## A write to CMD -/

theorem State.writeCmd_of_fault (hf : s.fault = true) : s.writeCmd v = { s with lastCmd := v } := if_pos hf

theorem State.writeCmd_of_busy (hf : s.fault = false) (hb : s.busy = true) : s.writeCmd v =
    { s with lastCmd := v, fault := true, faultCode := .busy, faultAddr := 0x18, faultData := v } := by
  simp [State.writeCmd, State.raiseFault, cmdAddr, hf, hb]

theorem State.checkWord_of_error {e : Illegal} (h : decode v = .error e) : s.checkWord v = .illegal := by
  rw [State.checkWord, h]

theorem State.checkWord_of_ok (h : decode v = .ok i) : s.checkWord v = check i s := by
  rw [State.checkWord, h]

/-- Issuing a command that every check accepts, with FAULT = 0 and BUSY = 0, stores LASTCMD and latches it. -/
theorem State.writeCmd_accepted (hf : s.fault = false) (hb : s.busy = false) (hd : decode v = .ok i)
    (hc : check i s = .noFault) : s.writeCmd v =
      { s with lastCmd := v, pend := v.extractLsb' 0 32, busy := true, done := false } := by
  have hw : s.checkWord v = .noFault := (State.checkWord_of_ok hd).trans hc
  simp [State.writeCmd, State.latch, hf, hb, hw]

/-! ## The check of a command -/

/-- A command that reads no slot can only fail its length condition `p` (60_exceptions R602). -/
theorem check_eq_size {p : Prop} [Decidable p] (hk : inputSlot i = none) (hp : sizeOk i s = false ↔ p)
    (he : exponentFits i s = true) : check i s = if p then .size else .noFault := by
  simp [check, hk, he, hp]

/-- The checks before SIZE of a command on a slot that must be odd. -/
theorem check_of_needsOdd (hk : inputSlot i = some k) (hn : needsOdd i = true) :
    check i s = if (s.M k).valid = false then .nomod else if (s.M k).odd = false then .even
      else if sizeOk i s = false then .size else if exponentFits i s = false then .explen else .noFault := by
  simp [check, hk, hn]

/-- The check of a command on a slot of either parity with the length condition `p`. -/
theorem check_eq_nomod_size {p : Prop} [Decidable p] (hk : inputSlot i = some k) (hn : needsOdd i = false)
    (hp : sizeOk i s = false ↔ p) (he : exponentFits i s = true) :
    check i s = if (s.M k).valid = false then .nomod else if p then .size else .noFault := by
  simp [check, hk, hn, hp, he]

/-- The check of a command on a slot that must be odd with the length condition `p`. -/
theorem check_eq_nomod_even_size {p : Prop} [Decidable p] (hk : inputSlot i = some k) (hn : needsOdd i = true)
    (hp : sizeOk i s = false ↔ p) (he : exponentFits i s = true) :
    check i s = if (s.M k).valid = false then .nomod else if (s.M k).odd = false then .even
      else if p then .size else .noFault := by
  simp [check_of_needsOdd hk hn, hp, he]

/-- MODEXP is the one command with a check after SIZE: ELEN bytes that do not fit N[b] (44_exponentiation R463). -/
theorem check_modexp_eq (d a b : NatIx) (k : SlotIx) :
    check (.modexp d a b k) s = if (s.M k).valid = false then .nomod else if (s.M k).odd = false then .even
      else if (s.N a).len ≠ (s.M k).len then .size
      else if Config.W * (s.N b).len < 8 * s.elen.toNat then .explen else .noFault := by
  have hsize : sizeOk (.modexp d a b k) s = false ↔ (s.N a).len ≠ (s.M k).len := decide_eq_false_iff_not
  have hexp : exponentFits (.modexp d a b k) s = false ↔ Config.W * (s.N b).len < 8 * s.elen.toNat :=
    decide_eq_false_iff_not.trans not_le
  simp only [check_of_needsOdd (i := .modexp d a b k) rfl rfl, hsize, hexp]

/-- Not both lengths match exactly when one does not. -/
theorem decide_both_eq_false_iff {p q : Prop} [Decidable (p ∧ q)] : decide (p ∧ q) = false ↔ ¬p ∨ ¬q :=
  decide_eq_false_iff_not.trans not_and_or

end Sys2Proof.Machine
end

section
/-! What keeps the fault record (60_exceptions R603): every access and every command once a fault is recorded, and a
command that completes whether one is or not. -/

namespace Sys2Proof.Machine

variable {s t : State}

/-- From `s` to `t` FAULT, FAULTCODE, FAULTADDR and FAULTDATA stay as they are. -/
structure SameFaultRecord (s t : State) : Prop where
  fault : t.fault = s.fault
  code : t.faultCode = s.faultCode
  addr : t.faultAddr = s.faultAddr
  data : t.faultData = s.faultData

theorem SameFaultRecord.raiseFault (hf : s.fault = true) (c : FaultCode) (a v : Word) :
    SameFaultRecord s (s.raiseFault c a v) := by
  rw [State.raiseFault_of_fault hf]
  exact ⟨rfl, rfl, rfl, rfl⟩

theorem hostRead_sameFaultRecord (hf : s.fault = true) (addr : Addr) : SameFaultRecord s (s.hostRead addr) := by
  rcases s.hostRead_cases addr with ⟨v, n, hr⟩ | hr <;> rw [hr]
  · exact ⟨rfl, rfl, rfl, rfl⟩
  · exact { SameFaultRecord.raiseFault hf .align (busAddr addr) 0 with }

/-- No write but a soft reset changes a recorded fault. -/
theorem WriteEffect.sameFaultRecord {addr : Addr} {v : Word} (h : WriteEffect s addr v t) (hf : s.fault = true)
    (hn : ¬(addr = addrOf .ctrl ∧ v.getLsbD 0 = true)) : SameFaultRecord s t := by
  cases h with
  | softReset ha hv => exact absurd ⟨ha, hv⟩ hn
  | faulted c => exact .raiseFault hf c _ v
  | cmdFault c => exact { SameFaultRecord.raiseFault (s := { s with lastCmd := v }) hf c cmdAddr v with }
  | ignored | enables | clearDone | lastCmd | issue | elen | eshort | nat => exact ⟨rfl, rfl, rfl, rfl⟩

theorem EffectFrame.sameFaultRecord {i : Instr} (h : EffectFrame i s t) : SameFaultRecord s t := by
  obtain ⟨nats, slots, choices, carry, okf, draws, rfl⟩ := h.exists_eq
  exact ⟨rfl, rfl, rfl, rfl⟩

/-- A command that every check accepts completes and raises no fault (60_exceptions R611, R612). -/
theorem exec_completes {i : Instr} (hc : check i s = .noFault) :
    ∃ t, exec i s = .next t ∧ t.busy = false ∧ t.done = true ∧ SameFaultRecord s t := by
  rcases exec_cases i s with ⟨-, u, hu, hf⟩ | ⟨hne, -⟩
  · exact ⟨u.complete, hu, rfl, rfl, { hf.sameFaultRecord with }⟩
  · exact absurd hc hne

theorem exec_sameFaultRecord {i : Instr} (hf : s.fault = true) (h : exec i s = .next t) : SameFaultRecord s t := by
  rcases exec_cases i s with ⟨-, u, hu, hframe⟩ | ⟨-, hu⟩ <;> rw [hu] at h <;> cases h
  · exact { hframe.sameFaultRecord with }
  · exact { SameFaultRecord.raiseFault hf (check i s) cmdAddr (encode i) with }

/-- No step but a reset changes a recorded fault. -/
theorem StepEffect.sameFaultRecord (h : StepEffect s t) (hf : s.fault = true) (hr : s.resetsNext = false) :
    SameFaultRecord s t := by
  cases h with
  | reset hreset => exact absurd hreset (Bool.eq_false_iff.1 hr)
  | idle => exact ⟨rfl, rfl, rfl, rfl⟩
  | read _ addr => exact { hostRead_sameFaultRecord (s := s.popEvent) hf addr with }
  | write _ addr v hn => exact { (hostWrite_effect s.popEvent addr v).sameFaultRecord hf hn with }
  | command _ _ i _ _ he => exact { exec_sameFaultRecord (s := s.popEvent) hf he with }

end Sys2Proof.Machine
end

section
/-! The step for each kind of next move while `rst` is low, and that it never stops on a checked command
(20_memory R223; 60_exceptions R611). -/

namespace Sys2Proof.Machine

variable {s : State}

/-! ## The step by the next move -/

theorem step_of_no_event (hr : s.rstIn = false) (he : s.events = []) : step s = engineStep s := by
  simp [step, transition, hr, he]

theorem step_of_event {e : Event} {rest : List Event} (hr : s.rstIn = false) (he : s.events = e :: rest) :
    step s = liveEvent { s with events := rest } e := by
  simp [step, transition, hr, he]

theorem engineStep_of_pending {i : Instr} (hb : s.busy = true) (hd : decodeCommand s.pend = .ok i) :
    engineStep s = exec i s := by
  simp [engineStep, hb, hd]

theorem engineStep_of_idle (hb : s.busy = false) : engineStep s = .next s := by
  simp [engineStep, hb]

/-- A word of the opcode table is the command word in the low half of its bus word (30_encoding R301). -/
theorem decodeCommand_of_decodeTableWord {w : Nat} {i : Instr} (h : decodeTableWord 32 w = some i) :
    decodeCommand (BitVec.ofNat 32 (w % 2 ^ 32)) = .ok i := by
  have hlow : (BitVec.ofNat 64 (w % 2 ^ 32)).extractLsb' 0 32 = BitVec.ofNat 32 (w % 2 ^ 32) := by
    apply BitVec.eq_of_toNat_eq
    simp only [BitVec.extractLsb'_toNat, BitVec.toNat_ofNat, Nat.shiftRight_zero]
    omega
  unfold decodeTableWord at h
  split at h
  next j hd =>
    cases h
    exact hlow ▸ decodeCommand_of_decode hd
  next => cases h

/-! ## No step stops -/

theorem State.pendChecked_iff :
    s.pendChecked = true ↔ ∃ i, decodeCommand s.pend = .ok i ∧ check i s = .noFault := by
  unfold State.pendChecked
  cases decodeCommand s.pend <;> simp

/-- The engine's step of a checked command completes it. -/
theorem engineStep_completes (hb : s.busy = true) (hp : s.pendChecked = true) :
    ∃ t, engineStep s = .next t ∧ t.busy = false ∧ t.done = true ∧ SameFaultRecord s t := by
  obtain ⟨i, hd, hc⟩ := State.pendChecked_iff.1 hp
  rw [engineStep_of_pending hb hd]
  exact exec_completes hc

theorem engineStep_next (hp : s.busy = true → s.pendChecked = true) : ∃ t, engineStep s = .next t := by
  cases hb : s.busy with
  | false => exact ⟨s, engineStep_of_idle hb⟩
  | true =>
    obtain ⟨t, ht, -⟩ := engineStep_completes hb (hp hb)
    exact ⟨t, ht⟩

theorem liveEvent_next (hp : s.busy = true → s.pendChecked = true) (e : Event) : ∃ t, liveEvent s e = .next t := by
  cases e with
  | read addr => exact ⟨_, rfl⟩
  | write addr v => exact ⟨_, rfl⟩
  | engine => exact engineStep_next hp
  | rst level => cases level <;> exact ⟨_, rfl⟩

/-- Where a pending command is a checked one, no step stops; the list of moves is not among what the checks read. -/
theorem step_next (hp : s.busy = true → s.pendChecked = true) : ∃ t, step s = .next t := by
  rcases step_cases s with ⟨-, -, hs⟩ | ⟨-, -, hs⟩ | ⟨e, rest, -, -, hs⟩ | ⟨e, rest, -, -, hs⟩ <;> rw [hs]
  · exact ⟨_, rfl⟩
  · exact engineStep_next hp
  · exact ⟨_, rfl⟩
  · refine liveEvent_next (fun hb => ?_) e
    obtain ⟨i, hd, hc⟩ := State.pendChecked_iff.1 (hp hb)
    exact State.pendChecked_iff.2 ⟨i, hd, by cases i <;> exact hc⟩

end Sys2Proof.Machine
end

section
/-! Issue, checks, faults and the engine's step. -/

open Sys2Proof Sys2Proof.Machine

/-- Settles O7: one lemma per branch of `writeCmd`. -/
theorem cmdWriteIssuesOrIsTurnedAway : Obligations.CmdWriteIssuesOrIsTurnedAway := by
  intro s v
  have hcmd : s.hostWrite (addrOf .cmd) v = s.writeCmd v := s.hostWrite_addrOf .cmd v
  rw [hcmd]
  refine ⟨State.writeCmd_of_fault, State.writeCmd_of_busy, fun e hf hb hd => s.writeCmd_illegal hf hb ⟨e, hd⟩,
    fun i hf hb hd => ⟨fun hc => ?_, fun hc => ⟨State.writeCmd_accepted hf hb hd hc, decodeCommand_of_decode hd⟩⟩⟩
  obtain rfl := decode_eq_ok_iff.1 hd
  exact State.writeCmd_rejected hf hb hc

/-- Settles O9: what a command reads of its slot and which lengths it compares, put into the chain of R602. -/
theorem checksReportTheFirstViolation : Obligations.ChecksReportTheFirstViolation := by
  refine ⟨fun s v => ⟨fun e => State.checkWord_of_error, fun i => State.checkWord_of_ok⟩, fun s d a b k c ka kb => ?_⟩
  simp only [List.forall_mem_cons, List.not_mem_nil, false_imp_iff, implies_true, and_true]
  refine ⟨?_, ?_, ?_, ?_, ?_, ?_, ?_, ?_⟩
  · exact ⟨rfl, rfl, rfl, rfl, rfl, rfl, rfl, rfl⟩
  · exact check_eq_nomod_size rfl rfl (decide_eq_false_iff_not.trans not_le) rfl
  · refine ⟨?_, ?_, ?_, ?_⟩ <;> exact check_eq_size rfl decide_eq_false_iff_not rfl
  · constructor <;> exact check_eq_nomod_size rfl rfl decide_both_eq_false_iff rfl
  · constructor <;> exact check_eq_nomod_size rfl rfl decide_eq_false_iff_not rfl
  · constructor <;> exact check_eq_nomod_even_size rfl rfl decide_both_eq_false_iff rfl
  · refine ⟨?_, ?_, ?_⟩ <;> exact check_eq_nomod_even_size rfl rfl decide_eq_false_iff_not rfl
  · exact check_modexp_eq d a b k

/-- Settles O10: what `exec` does with the command is `abandon`, whose fault is recorded or not. -/
theorem faultedCommandOnlyRecords : Obligations.FaultedCommandOnlyRecords := by
  refine fun i s hc => ⟨fun hf => exec_rejected hf hc, fun hf => ?_⟩
  rw [exec_fault hc, State.abandon, State.raiseFault_of_fault hf]

/-- Settles O12: over what a step can do, each access and command raises its faults by `raiseFault` alone. -/
theorem firstFaultIsKeptUntilReset : Obligations.FirstFaultIsKeptUntilReset := by
  refine ⟨fun s c a v => ⟨fun hf => State.raiseFault_of_clear hf c a v, fun hf => State.raiseFault_of_fault hf c a v⟩,
    fun s t hf hr h => ?_⟩
  obtain ⟨hfault, hcode, haddr, hdata⟩ := (step_effect h).sameFaultRecord hf hr
  exact ⟨hfault.trans hf, hcode, haddr, hdata⟩

/-- Settles O57: the invariant says a pending command passes its checks, so its effect is completed, with no fault. -/
theorem issuedCommandsComplete : Obligations.IssuedCommandsComplete := by
  intro s hinv
  have hpending := (inv_iff.1 hinv).2.2.pending
  refine ⟨step_next fun hb => (hpending hb).2, fun hb => ?_⟩
  obtain ⟨t, ht, hbusy, hdone, hfault, hcode, haddr, hdata⟩ := engineStep_completes hb (hpending hb).2
  exact ⟨t, ht, hbusy, hdone, hfault, hcode, haddr, hdata⟩

/-- Settles O6: with `rst` low the step is `liveEvent` of the next move, or `engineStep` when there is none. -/
theorem stepExecutesPendingCommand : Obligations.StepExecutesPendingCommand := by
  refine ⟨fun s i rest hr hb hd => ⟨fun he => ?_, fun he => ?_⟩, fun s rest addr v hr => ⟨step_of_event hr,
    step_of_event hr, step_of_event hr, fun hb => ⟨fun he => ?_, fun he => ?_⟩⟩, fun s w i hd => ?_⟩
  · exact (step_of_event hr he).trans (engineStep_of_pending (s := { s with events := rest }) hb hd)
  · exact (step_of_no_event hr he).trans (engineStep_of_pending hb hd)
  · exact (step_of_event hr he).trans (engineStep_of_idle (s := { s with events := rest }) hb)
  · exact (step_of_no_event hr he).trans (engineStep_of_idle hb)
  · exact (step_of_event (s := s.withFetchWord 32 w) rfl rfl).trans
      (engineStep_of_pending rfl (decodeCommand_of_decodeTableWord hd))

end

section
/-! The steps that reset the block (70_reset_and_hazards R701, R702): each leaves a reset block, with the move taken off
the list and no draw made. -/

namespace Sys2Proof.Machine

variable {s : State}

/-- A reset block is at R701's values, whatever its environment. -/
theorem State.resetBlock_blockIsReset (u : State) : u.resetBlock.BlockIsReset :=
  resetValues.1

/-- A soft reset at CTRL's own address is `resetBlock` (70_reset_and_hazards R702). -/
theorem State.hostWrite_ctrl_softReset {v : Word} (hv : v.getLsbD 0 = true) :
    s.hostWrite (addrOf .ctrl) v = s.resetBlock :=
  (s.hostWrite_addrOf .ctrl v).trans (if_pos hv)

/-- A move while `rst` is high leaves the list of moves and the count of draws to the environment. -/
theorem State.heldInReset_environment (s : State) (e : Event) :
    (s.heldInReset e).events = s.events ∧ (s.heldInReset e).draws = s.draws := by
  cases e with
  | read addr =>
    simp only [State.heldInReset]
    split <;> exact ⟨rfl, rfl⟩
  | write | engine | rst => exact ⟨rfl, rfl⟩

/-- A state that the next step resets to: a reset block whose environment is that of `s` after the move. -/
def ResetsTo (s t : State) : Prop :=
  ∃ u : State, t = u.resetBlock ∧ u.events = s.events.tail ∧ u.draws = s.draws

theorem heldInReset_resetsTo {e : Event} {rest : List Event} (he : s.events = e :: rest) :
    ResetsTo s (({ s with events := rest } : State).heldInReset e) := by
  obtain ⟨u, hu⟩ := State.heldInReset_isReset { s with events := rest } e
  obtain ⟨hevents, hdraws⟩ := State.heldInReset_environment { s with events := rest } e
  rw [hu] at hevents hdraws ⊢
  exact ⟨u, rfl, by rw [he]; exact hevents, hdraws⟩

/-- With `rst` low, the moves that reset are the rise of `rst` and a soft reset. -/
theorem liveEvent_resetsTo {e : Event} {rest : List Event} (hr : s.rstIn = false) (he : s.events = e :: rest)
    (h : s.resetsNext = true) : ∃ t, liveEvent { s with events := rest } e = .next t ∧ ResetsTo s t := by
  have htail : rest = s.events.tail := by rw [he, List.tail_cons]
  cases e with
  | read | engine => simp [State.resetsNext, hr, he] at h
  | rst level =>
    obtain rfl : level = true := by simpa [State.resetsNext, hr, he] using h
    exact ⟨_, rfl, { s with events := rest, rstIn := true }, rfl, htail, rfl⟩
  | write addr v =>
    obtain ⟨rfl, hv⟩ : addr = addrOf .ctrl ∧ v.getLsbD 0 = true := by
      simpa [State.resetsNext, hr, he, -BitVec.getLsbD_eq_getElem] using h
    exact ⟨_, rfl, { s with events := rest }, State.hostWrite_ctrl_softReset hv, htail, rfl⟩

theorem step_resetsTo (h : s.resetsNext = true) : ∃ t, step s = .next t ∧ ResetsTo s t := by
  rcases step_cases s with ⟨-, he, hs⟩ | ⟨hr, he, -⟩ | ⟨e, rest, -, he, hs⟩ | ⟨e, rest, hr, he, hs⟩
  · exact ⟨_, hs, s, rfl, by rw [he, List.tail_nil], rfl⟩
  · simp [State.resetsNext, hr, he] at h
  · exact ⟨_, hs, heldInReset_resetsTo he⟩
  · rw [hs]
    exact liveEvent_resetsTo hr he h

end Sys2Proof.Machine
end

section
/-! What a cycle count depends on, row by row of 70_reset_and_hazards R731. -/

namespace Sys2Proof.Machine

variable {s t : State}

/-- A cycle count is a function of its key alone (00_scope R12). -/
theorem cycles_congr {i j : Instr} (h : timingKey i s = timingKey j t) : cycles i s = cycles j t := by
  rw [cycles, cycles, h]

theorem bitlen_le_one_iff (v : Nat) : bitlen v ≤ 1 ↔ v ≤ 1 := by
  refine ⟨fun h => ?_, fun h => bitlen_le_of_lt (by omega)⟩
  have hv : v < 2 ^ 1 := (lt_two_pow_bitlen v).trans_le (Nat.pow_le_pow_right (by decide) h)
  omega

/-- The slot MODLOAD results with (41_nat_and_modulus R403). -/
theorem exec_modload_slot {k : SlotIx} {a : NatIx} {u : State} (h : exec (.modload k a) s = .next u) :
    u.M k = if (s.N a).val ≤ 1 then Slot.empty else Slot.load (s.N a).val := by
  split
  · rw [exec_modload_of_le_one k ‹_›] at h
    cases h
    exact s.setSlot_M_same k _
  · rw [exec_modload_of_two_le k (by omega)] at h
    cases h
    exact s.setSlot_M_same k _

/-- MODLOAD's row: the source's length, and the length and bits the slot results with, accepted or rejected. -/
theorem timingKey_modload {k : SlotIx} {a : NatIx} {u : State} (h : exec (.modload k a) s = .next u) :
    timingKey (.modload k a) s = .sizes 0x01 [(s.N a).len, (u.M k).len, (u.M k).bits] := by
  rw [exec_modload_slot h, timingKey]
  split <;> rfl

/-- The sizes MODLOAD gives a slot are functions of the value's bit length. -/
theorem timingKey_modload_congr {k : SlotIx} {a : NatIx} (hlen : (s.N a).len = (t.N a).len)
    (hbits : bitlen (s.N a).val = bitlen (t.N a).val) :
    timingKey (.modload k a) s = timingKey (.modload k a) t := by
  have hrejected : (s.N a).val ≤ 1 ↔ (t.N a).val ≤ 1 := by
    rw [← bitlen_le_one_iff (s.N a).val, hbits, bitlen_le_one_iff]
  simp only [timingKey, hrejected, minimalLen, hlen, hbits]

theorem PublicEq.eshort (h : PublicEq s t) : s.eshort = t.eshort :=
  (congrArg State.eshort (publicEq_iff.1 h) :)

/-- For every command but MODINV and GCD, what is public fixes the key, for MODLOAD together with the value's bit
length (00_scope R25). -/
theorem PublicEq.timingKey_eq (h : PublicEq s t) (i : Instr)
    (hload : ∀ k a, i = .modload k a → bitlen (s.N a).val = bitlen (t.N a).val)
    (hmodinv : ∀ d a k, i ≠ .modinv d a k) (hgcd : ∀ d a b, i ≠ .gcd d a b) : timingKey i s = timingKey i t := by
  cases i with
  | modload k a => exact timingKey_modload_congr (h.N_len a) (hload k a rfl)
  | modinv d a k => exact absurd rfl (hmodinv d a k)
  | gcd d a b => exact absurd rfl (hgcd d a b)
  | expand | mov | addc | subb | select | equal | iszero | isone | isodd => simp only [timingKey, h.N_len, h.M_len]
  | modadd | modsub | montmul | tomont | frommont | modmul | isminusone => simp only [timingKey, h.M_len]
  | modexp => simp only [timingKey, h.M_len, h.elen]
  | modexps => simp only [timingKey, h.M_len, h.eshort]
  | cand | cor => rfl

end Sys2Proof.Machine
end

section
/-! Resets and cycle counts. -/

open Sys2Proof Sys2Proof.Machine

/-- Settles O28: the next state is a reset block, of which R701's table holds, with the environment of the state after
the move. -/
theorem resetStepRestoresEveryValue : Obligations.ResetStepRestoresEveryValue := by
  intro s h
  obtain ⟨_, hs, u, rfl, hevents, hdraws⟩ := step_resetsTo h
  exact ⟨_, hs, u.resetBlock_blockIsReset, hevents, hdraws⟩

/-- Settles O59: equal numbers in a row make equal keys, and a count is a function of its key. -/
theorem cyclesDependOnPublicSizes : Obligations.CyclesDependOnPublicSizes := by
  refine ⟨fun i s => Nat.succ_pos _, fun s t d a b d' a' b' k k' c ka kb c' ka' kb' => ?_,
    fun i s t h hload hmodinv hgcd => cycles_congr (h.timingKey_eq i hload hmodinv hgcd)⟩
  simp only [List.forall_mem_cons, List.not_mem_nil, false_imp_iff, implies_true, and_true]
  refine ⟨fun ha u v hu hv hlen hbits => ?_, fun hd hk => ?_, fun ha => ?_, fun ha hb => ?_, fun hk => ?_,
    fun hk he => ?_, fun hk he => ?_, ?_, ?_⟩
  · exact cycles_congr (by rw [timingKey_modload hu, timingKey_modload hv, ha, hlen, hbits])
  · exact cycles_congr (by simp only [timingKey, Instr.fields, hd, hk])
  · refine ⟨?_, ?_, ?_, ?_⟩ <;> exact cycles_congr (by simp only [timingKey, Instr.fields, ha])
  · refine ⟨?_, ?_, ?_, ?_⟩ <;> exact cycles_congr (by simp only [timingKey, Instr.fields, ha, hb])
  · refine ⟨?_, ?_, ?_, ?_, ?_, ?_, ?_⟩ <;> exact cycles_congr (by simp only [timingKey, Instr.fields, hk])
  · exact cycles_congr (by simp only [timingKey, Instr.fields, hk, he])
  · exact cycles_congr (by simp only [timingKey, Instr.fields, hk, he])
  · exact cycles_congr rfl
  · exact cycles_congr rfl

end
